-- ==== Sys2Proof/Word.lean ====
section
/-! DEFINITION. The widths of the block's data (spec/00_scope.md R7) and nothing else. -/

namespace Sys2Proof

/-- A frame word, "32-bit unsigned value" (R7, R21). -/
abbrev Word := BitVec 32

/-- One byte of the serialized frame (R42). -/
abbrev Byte := BitVec 8

/-- A 24-bit colour `0xRRGGBB` (R7, R70). -/
abbrev Colour := BitVec 24

/-- The 5-bit global brightness (R7, R20). -/
abbrev Brightness := BitVec 5

/-- A command word of the format CMD40 (R57). -/
abbrev Command := BitVec 40

/-- One entry of the spiral table: a linear index in 1..64, which needs 7 bits (R7, R26). -/
abbrev SpiralEntry := BitVec 7

end Sys2Proof
end

