-- ==== Sys2Proof/Syntax.lean ====
section
/-! DEFINITION. The 13 commands of DSR-CMD version 1 (spec/30_encoding.md R61), one constructor per row of
opcode_table.json. An operand is what the command uses of the word: fields it ignores (R64) are not in its syntax. -/

namespace Sys2Proof

/-- A command. ARG operands are unsigned integers (R58: "arg is compared with the ranges of rule R59 as an unsigned
integer"); the 8-bit field that carries them is a check of WellFormed. Every value of the field is an operand, the
values R59 answers with an error too. -/
inductive Instr where
  /-- INIT `b8`: construct the frame buffer at brightness `b8` (R77). -/
  | init (b8 : Nat)
  /-- SET_PIXEL `i`, `c`: linear index and colour (R78). -/
  | setPixel (i : Nat) (c : Colour)
  /-- GET_PIXEL `i`: linear index (R79). -/
  | getPixel (i : Nat)
  /-- SET_PIXEL_SPIRAL `p`, `c`: spiral index (the spec's `s`) and colour (R80). -/
  | setPixelSpiral (p : Nat) (c : Colour)
  /-- GET_PIXEL_SPIRAL `p`: spiral index (R81). -/
  | getPixelSpiral (p : Nat)
  /-- SERIALIZE (R87). -/
  | serialize
  /-- RENDER (R88). -/
  | render
  /-- FILL `c` (R100). -/
  | fill (c : Colour)
  /-- CLEAR (R101). -/
  | clear
  /-- FILLED_CIRCLE `r`, `c`: radius and colour (R102). -/
  | filledCircle (r : Nat) (c : Colour)
  /-- RING `r`, `c`: radius and colour (R103). -/
  | ring (r : Nat) (c : Colour)
  /-- FILL_HALF `sd`, `c`: side operand (R62) and colour (R104). -/
  | fillHalf (sd : Nat) (c : Colour)
  /-- FILL_QUARTER24 `sd`, `c`: side operand (R62) and colour (R105). -/
  | fillQuarter24 (sd : Nat) (c : Colour)
  deriving DecidableEq, Repr

end Sys2Proof
end

