-- ==== Sys2Proof/WellFormed.lean ====
section
/-! DEFINITION. Which instructions a command word can carry: the operand fits its field (spec/30_encoding.md R57,
R68: "An operand that does not fit its field (b8, i, s, r or side above 255 …) is an assembly error, not a command").
The colour fits by its type. -/

namespace Sys2Proof

/-- An operand fits the 8-bit ARG field (R57, R59). -/
def argFits (a : Nat) : Bool := decide (a < 256)

/-- The instruction can be put in a CMD40 word. It says nothing of the ranges of R59: an index 0 or a radius 4 is
encodable, and its command answers the error R59 names. -/
def Instr.wellFormed : Instr → Bool
  | .init b8 => argFits b8
  | .setPixel i _ => argFits i
  | .getPixel i => argFits i
  | .setPixelSpiral p _ => argFits p
  | .getPixelSpiral p => argFits p
  | .serialize => true
  | .render => true
  | .fill _ => true
  | .clear => true
  | .filledCircle r _ => argFits r
  | .ring r _ => argFits r
  | .fillHalf sd _ => argFits sd
  | .fillQuarter24 sd _ => argFits sd

end Sys2Proof
end

