-- ==== Sys2Proof/Decode.lean ====
section
/-! DEFINITION. Decoding a 40-bit command word and encoding a command (spec/30_encoding.md R57, R58, R61, R63, R64). -/

namespace Sys2Proof

/-- Why a word is no command (R63). Either makes the command illegal and answers IllegalCommand (R110). -/
inductive Illegal where
  /-- OP is 0x0, 0xE or 0xF. -/
  | reservedOpcode (op : BitVec 4)
  /-- RSV is not `0b0000`. -/
  | reservedField (rsv : BitVec 4)
  deriving DecidableEq, Repr

/-- `op = cmd[39:36]` (R58). -/
def opField (w : Command) : BitVec 4 := w.extractLsb' 36 4

/-- `rsv = cmd[35:32]` (R58). -/
def rsvField (w : Command) : BitVec 4 := w.extractLsb' 32 4

/-- `arg = cmd[31:24]`, "8 bits, unsigned 0..255" (R58). -/
def argField (w : Command) : Nat := (w.extractLsb' 24 8).toNat

/-- `col = cmd[23:0]` (R58). -/
def colorField (w : Command) : Colour := w.extractLsb' 0 24

/-- The opcode map (R61): one opcode per command, the three others reserved (R63). -/
def decodeOp (op : BitVec 4) (arg : Nat) (col : Colour) : Except Illegal Instr :=
  match op.toNat with
  | 0x1 => .ok (.init arg)
  | 0x2 => .ok (.setPixel arg col)
  | 0x3 => .ok (.getPixel arg)
  | 0x4 => .ok (.setPixelSpiral arg col)
  | 0x5 => .ok (.getPixelSpiral arg)
  | 0x6 => .ok .serialize
  | 0x7 => .ok .render
  | 0x8 => .ok (.fill col)
  | 0x9 => .ok .clear
  | 0xA => .ok (.filledCircle arg col)
  | 0xB => .ok (.ring arg col)
  | 0xC => .ok (.fillHalf arg col)
  | 0xD => .ok (.fillQuarter24 arg col)
  | _ => .error (.reservedOpcode op)

/-- The decoder: total on every 40-bit word, "a decoder always reads exactly 40 bits" (R57). RSV is never ignored
(R63, R64); a field the opcode does not use is dropped (R64). -/
def decode (w : Command) : Except Illegal Instr :=
  if rsvField w = 0b0000#4 then decodeOp (opField w) (argField w) (colorField w)
  else .error (.reservedField (rsvField w))

/-- A CMD40 word from its fields, RSV = 0 (R57). An operand keeps its low 8 bits; a well-formed one loses nothing. -/
def cmd40 (op : BitVec 4) (arg : Nat) (col : Colour) : Command :=
  op ++ 0b0000#4 ++ BitVec.ofNat 8 arg ++ col

/-- The encoder (R61). "Ignored fields assemble as 0 and RSV assembles as 0" (R68). -/
def encode : Instr → Command
  | .init b8 => cmd40 0x1 b8 0
  | .setPixel i c => cmd40 0x2 i c
  | .getPixel i => cmd40 0x3 i 0
  | .setPixelSpiral p c => cmd40 0x4 p c
  | .getPixelSpiral p => cmd40 0x5 p 0
  | .serialize => cmd40 0x6 0 0
  | .render => cmd40 0x7 0 0
  | .fill c => cmd40 0x8 0 c
  | .clear => cmd40 0x9 0 0
  | .filledCircle r c => cmd40 0xA r c
  | .ring r c => cmd40 0xB r c
  | .fillHalf sd c => cmd40 0xC sd c
  | .fillQuarter24 sd c => cmd40 0xD sd c

/-- The command word whose low `nbits` bits are those of `w` and whose other bits are 0: bit 0 is the word's least
significant bit, as opcode_table.json numbers it. -/
def commandWord (nbits w : Nat) : Command := BitVec.ofNat 40 (w % 2 ^ nbits)

/-- What the decoder reads from an instruction whose bits are `w`; none where it refuses. -/
def decodeTableWord (nbits w : Nat) : Option Instr :=
  match decode (commandWord nbits w) with
  | .ok i => some i
  | .error _ => none

end Sys2Proof
end

