-- ==== Sys2Proof/Config.lean ====
section
/-! DEFINITION. What is fixed when the block is built and what the spec leaves open as a parameter. -/

namespace Sys2Proof.Config

/-- `N`, the number of LEDs: "is 64. It is fixed when the block is built, not given at run time" (R6).
PARAM.N of R30 is this constant. -/
abbrev numLeds : Nat := 64

/-- The order of the spiral table, a parameter of the model (R8, D11, I3). It has no body, so that nothing in Lean
knows an entry; a permutation is what "a bijection {0..63} → {1..64}" says when linear indices count from 0.
`State.reset` lays its table out from it (log 1). -/
opaque spiralPerm : Equiv.Perm (Fin 64)

end Sys2Proof.Config
end

