-- ==== Sys2Proof/Machine/State.lean ====
section
/-! DEFINITION. The block's state as plain data (spec/10_state.md), its ports, and the state after reset
(spec/70_reset_and_hazards.md R131). -/

namespace Sys2Proof.Machine

/-- What the bus sink answers to one transmission (R9, R34). That it never answers is no third value: it is an answer
that is never there to take (log 2). -/
inductive BusAnswer where
  | ok
  | ioErr
  deriving DecidableEq, Repr

/-- The status codes of a response by name (R109); `statusCode` gives the 4-bit values. Codes 8..15 are reserved and
never produced, so no name stands for them (I7). -/
inductive Status where
  /-- 0: success. -/
  | ok
  /-- 1: never raised by this hardware (R118). -/
  | invalidBrightness
  /-- 2: linear index not in 1..N, or spiral index not in 0..N-1 (R112). -/
  | indexOutOfRange
  /-- 3: radius not in 0..3 (R113). -/
  | invalidRadius
  /-- 4: side not in 0..3 (R114). -/
  | invalidSide
  /-- 5: the bus sink answered IOERR (R115). -/
  | ioError
  /-- 6: reserved opcode or RSV ≠ 0 (R110). -/
  | illegalCommand
  /-- 7: a command other than INIT while INIT = 0 (R111). -/
  | notInitialized
  deriving DecidableEq, Repr

/-- A response, one per accepted command (R60). -/
structure Response where
  /-- STATUS, by name. -/
  status : Status
  /-- WARN: 1 only for an INIT whose brightness operand was clamped. -/
  warn : Bool
  /-- DATA: the colour read by GET_PIXEL or GET_PIXEL_SPIRAL, and 0 otherwise. -/
  data : Colour
  /-- STREAM: the bytes of SER() for a successful SERIALIZE, and empty otherwise. -/
  stream : List Byte
  deriving DecidableEq, Repr

/-- A bus frame with its answer, as a run shows it (R141). -/
structure Frame where
  bytes : List Byte
  answer : BusAnswer
  deriving DecidableEq, Repr

/-- The reasons a step can fault: none. Every error of the block is the STATUS of a response (R108: "There is no
exception vector, no handler"), after which the block takes the next command, so nothing raises a fault and there is no
constructor. Safe: no behaviour is left out by it. -/
inductive Fault where
  deriving DecidableEq, Repr

/-- The reasons a step can be refused. -/
inductive Refusal where
  /-- Raised by an arm of `exec` whose instruction has no meaning yet. Safe. No arm raises it. -/
  | notModelled (mnemonic : String)
  /-- Raised by `step` when RST is asserted while a command is in flight: "Reset while a command is in flight (BUSY = 1)
  is not specified. A model must not take it as a step" (R131, I2). Safe: the model stops. -/
  | resetWhileBusy
  deriving DecidableEq, Repr

/-- The state. First the spec's tuple and its read-only table (R18, R26), then the ports of R32 to R35 as the model's
own fields. FB[0] and FB[65] are hardwired (R23, R24) and have no storage; `State.fb` reads all 66 words. -/
structure State where
  /-- INIT: a frame buffer has been constructed (R19). -/
  init : Bool
  /-- BRIGHT: the global brightness (R20). -/
  bright : Brightness
  /-- FB[1..64], the pixel words; FB[k] is entry k - 1 (R22). -/
  pixels : Vector Word 64
  /-- BUSY: a command is in flight (R31). -/
  busy : Bool
  /-- SPIRAL, the read-only spiral table: spiral position to linear index (R26). -/
  spiral : Vector SpiralEntry 64
  /-- Command port: the word the host offers, if it offers one (R32). -/
  cmdIn : Option Command
  /-- Reset input: RST is asserted (R35). -/
  rstIn : Bool
  /-- Bus port: the answers the sink has ready for the coming transmissions, in order (R9, R34). -/
  busIn : List BusAnswer
  /-- Bus port: the frame handed to the sink and not yet answered (R85). -/
  inFlight : Option (List Byte)
  /-- Response port: the responses given so far, the newest first (R33, R141). -/
  responses : List Response
  /-- Bus port: the frames answered so far, the newest first (R141). -/
  frames : List Frame
  deriving DecidableEq, Repr

/-- The spiral table that an order of the linear positions gives: entry s is the (1-based) linear index of position s
(R8, R26). -/
def spiralTable (perm : Fin 64 → Fin 64) : Vector SpiralEntry 64 :=
  Vector.ofFn fun s => BitVec.ofNat 7 ((perm s).val + 1)

/-- The machine right after reset (R131). INIT = 0 and BUSY = 0 are the spec's; BRIGHT and FB[1..64] are unspecified
there and hold 0 here (log 3, DESIGN CHOICE, never observed: R133); SPIRAL is the open parameter (log 1); the ports are
idle, with nothing offered, answered, given or transmitted (logs 2, 4, 5, 8). -/
def State.reset : State where
  init := false
  bright := 0
  pixels := Vector.replicate 64 0
  busy := false
  spiral := spiralTable Config.spiralPerm
  cmdIn := none
  rstIn := false
  busIn := []
  inFlight := none
  responses := []
  frames := []

end Sys2Proof.Machine
end

