-- ==== Sys2Proof/Machine/Flags.lean ====
section
/-! DEFINITION. The response's WARN bit and status codes. The block has no condition codes: "no status flags beyond
INIT" (spec/10_state.md R29), and INIT is written in `construct` alone. -/

namespace Sys2Proof.Machine

/-- `WARN(b8) = (b8 > 31)` (R73). -/
def warnOf (b8 : Nat) : Bool := decide (31 < b8)

/-- The 4-bit STATUS code of R109. -/
def statusCode : Status → BitVec 4
  | .ok => 0
  | .invalidBrightness => 1
  | .indexOutOfRange => 2
  | .invalidRadius => 3
  | .invalidSide => 4
  | .ioError => 5
  | .illegalCommand => 6
  | .notInitialized => 7

end Sys2Proof.Machine
end

