-- ==== Sys2Proof/Machine/Operands.lean ====
section
/-! DEFINITION. The operand forms: the pixel command encoder (spec/40_command_encoder.md), the index ranges
(spec/20_memory.md R39, R40), and the radius and side operands (spec/30_encoding.md R59, R62). -/

namespace Sys2Proof.Machine

/-- The encoder `ENC(c, b) = c[23:0] ++ 0b111 ++ b[4:0]` (R69). -/
def enc (c : Colour) (b : Brightness) : Word := c ++ 0b111#3 ++ b

/-- The decoder `COLOR_OF(w) = w[31:8]` (R71). -/
def colorOf (w : Word) : Colour := w.extractLsb' 8 24

/-- `BYTES(w) = [w[7:0], w[15:8], w[23:16], w[31:24]]`, little-endian (R44, R84). -/
def bytesOf (w : Word) : List Byte :=
  [w.extractLsb' 0 8, w.extractLsb' 8 8, w.extractLsb' 16 8, w.extractLsb' 24 8]

/-- The brightness clamp `CLAMP(b8) = if b8 > 31 then 0b11111 else b8[4:0]` (R73). -/
def clampBrightness (b8 : Nat) : Brightness := if 31 < b8 then 0b11111#5 else BitVec.ofNat 5 b8

/-- `PIX_OK(i) = (1 ≤ i ≤ N)`: the linear index is addressable (R39). -/
def pixOk (i : Nat) : Bool := decide (1 ≤ i ∧ i ≤ Config.numLeds)

/-- `SPI_OK(s) = (s < N)`: the spiral index is addressable (R40). -/
def spiOk (p : Nat) : Bool := decide (p < Config.numLeds)

/-- The radius is in 0..3 (R59, R113). -/
def radiusOk (r : Nat) : Bool := decide (r ≤ 3)

/-- The sides of FILL_HALF and FILL_QUARTER24 (R62). -/
inductive Side where
  | left
  | right
  | top
  | bottom
  deriving DecidableEq, Repr

/-- The side an ARG value stands for; 4 and above is no side (R62). -/
def sideOf : Nat → Option Side
  | 0 => some .left
  | 1 => some .right
  | 2 => some .top
  | 3 => some .bottom
  | _ => none

end Sys2Proof.Machine
end

