-- ==== Sys2Proof/Machine/Ops.lean ====
section
/-! DEFINITION. The shared operations: the frame buffer's accessors, responding and raising an error, accepting a
command, transmitting a frame, and reset. -/

namespace Sys2Proof.Machine

/-- `FB[k]` (R21). FB[0] and FB[65] are hardwired (R23, R24). There is no word above 65; no command reaches one, and the
function's value there is 0 (log 10). -/
def State.fb (s : State) (k : Nat) : Word :=
  if k = 0 then 0x00000000#32
  else if k = Config.numLeds + 1 then 0xFFFFFFFF#32
  else (s.pixels[k - 1]?).getD 0

/-- `FB[k] <- v` for a pixel word (R22). Nothing writes FB[0] or FB[65] (R23, R24): an index outside 1..64 writes
nothing. -/
def State.setFb (s : State) (k : Nat) (v : Word) : State :=
  if pixOk k then { s with pixels := s.pixels.setIfInBounds (k - 1) v } else s

/-- Spiral translation `LIN(s) = SPIRAL[s]` (R41), used after SPI_OK. -/
def State.lin (s : State) (p : Nat) : Nat := ((s.spiral[p]?).getD 0).toNat

/-- `SER()`: the 66 frame words in ascending index, each as 4 bytes (R84). -/
def State.ser (s : State) : List Byte :=
  (List.range (Config.numLeds + 2)).flatMap fun k => bytesOf (s.fb k)

/-- `respond(status, warn, data, stream)`: the command ends with one response, and BUSY becomes 0 (R33, R60). -/
def respond (st : Status) (warn : Bool) (data : Colour) (stream : List Byte) (s : State) : State :=
  { s with busy := false, responses := ⟨st, warn, data, stream⟩ :: s.responses }

/-- `respond(OK, 0, 0x000000, [])`. -/
def respondOk (s : State) : State := respond .ok false 0 [] s

/-- `raise E`: the one way an error is taken. The command ends with the response `(code(E), 0, 0x000000, [])` and BUSY
becomes 0 (R116); no other element changes (R117). There is no return from it: the block takes the next command (R121). -/
def raise (e : Status) (s : State) : State := respond e false 0 [] s

/-- "if op != 0x1 and INIT = 0 : raise NotInitialized", before a command's own checks (R66, R111). -/
def whenInit (body : State → State) (s : State) : State :=
  if s.init then body s else raise .notInitialized s

/-- Taking the offered word: "Taking it sets BUSY = 1" (R32). -/
def accept (s : State) : State := { s with cmdIn := none, busy := true }

/-- What INIT does to the state: BRIGHT and all pixel words are written, INIT is set (R77). -/
def construct (b8 : Nat) (s : State) : State :=
  { s with
    init := true
    bright := clampBrightness b8
    pixels := Vector.replicate 64 (enc 0x000000 (clampBrightness b8)) }

/-- A pixel write as every command makes it: "Every write stores a whole word ENC(c, BRIGHT)" (R22). -/
def writePixel (k : Nat) (c : Colour) (s : State) : State := s.setFb k (enc c s.bright)

/-- "for k in S : FB[k] <- ENC(c, BRIGHT)", in the list's order (R99). -/
def paint (S : List Nat) (c : Colour) (s : State) : State := S.foldl (fun t k => writePixel k c t) s

/-- The second half of `BusWrite` and the end of TRANSMIT (R85, R86): the sink's answer to the frame in flight is taken
and the command ends with OK or IoError. While there is no answer the block waits, with nothing changed (R31, R125). -/
def awaitAnswer (s : State) : State :=
  match s.inFlight, s.busIn with
  | some bytes, a :: rest =>
    let t := { s with inFlight := none, busIn := rest, frames := ⟨bytes, a⟩ :: s.frames }
    match a with
    | .ok => respondOk t
    | .ioErr => raise .ioError t
  | _, _ => s

/-- `TRANSMIT()` (R86): the whole frame, as the buffer stands now (R51), is handed to the sink, and the command waits for
its answer with BUSY = 1 (R31). -/
def transmit (s : State) : State := awaitAnswer { s with busy := true, inFlight := some s.ser }

/-- `PATTERN_APPLY(S, c)` (R99). -/
def patternApply (S : List Nat) (c : Colour) (s : State) : State := transmit (paint S c s)

/-- Reset with no command in flight (R131): INIT = 0, BUSY = 0, BRIGHT and FB[1..64] at the values State.reset names;
SPIRAL unchanged; no transmission and no response. The pulse on RST is used up (log 5). -/
def resetEvent (s : State) : State :=
  { s with
    init := State.reset.init
    bright := State.reset.bright
    pixels := State.reset.pixels
    busy := State.reset.busy
    rstIn := false }

end Sys2Proof.Machine
end

