-- ==== Sys2Proof/Machine/FrameBuffer.lean ====
section
/-! DEFINITION. INIT, SET_PIXEL, GET_PIXEL, SET_PIXEL_SPIRAL and GET_PIXEL_SPIRAL (spec/41_framebuffer.md). None of them
uses the bus port (R83). -/

namespace Sys2Proof.Machine

/-- INIT (R77): open before and after the first construction (R123), so it looks at no flag; WARN says that the operand
was clamped. It never raises InvalidBrightness (R118). -/
def execInit (b8 : Nat) (s : State) : Host.Outcome State Fault Refusal :=
  .next (respond .ok (warnOf b8) 0x000000 [] (construct b8 s))

/-- SET_PIXEL (R78). -/
def execSetPixel (i : Nat) (c : Colour) (s : State) : Host.Outcome State Fault Refusal :=
  .next (whenInit (fun t => if pixOk i then respondOk (writePixel i c t) else raise .indexOutOfRange t) s)

/-- GET_PIXEL (R79): DATA is FB[i][31:8]. -/
def execGetPixel (i : Nat) (s : State) : Host.Outcome State Fault Refusal :=
  .next (whenInit (fun t =>
    if pixOk i then respond .ok false (colorOf (t.fb i)) [] t else raise .indexOutOfRange t) s)

/-- SET_PIXEL_SPIRAL (R80): the range is checked before the table is read (R41). -/
def execSetPixelSpiral (p : Nat) (c : Colour) (s : State) : Host.Outcome State Fault Refusal :=
  .next (whenInit (fun t => if spiOk p then respondOk (writePixel (t.lin p) c t) else raise .indexOutOfRange t) s)

/-- GET_PIXEL_SPIRAL (R81). -/
def execGetPixelSpiral (p : Nat) (s : State) : Host.Outcome State Fault Refusal :=
  .next (whenInit (fun t =>
    if spiOk p then respond .ok false (colorOf (t.fb (t.lin p))) [] t else raise .indexOutOfRange t) s)

end Sys2Proof.Machine
end

