-- ==== Sys2Proof/Machine/Geometry.lean ====
section
/-! DEFINITION. The pattern indexer's index sets, each as the source's loop, in loop order (spec/43_pattern_indexer.md
R91 to R98; R92: the loop is the source's text and it wins). The closed-form predicates are statements about them. -/

namespace Sys2Proof.Machine

/-- `CT = [4, 16, 36, 64]`: LED count of the filled circle, radius 0..3 (R91). -/
def circleCount : List Nat := [4, 16, 36, 64]

/-- `RB = [0, 4, 16, 36, 64]`: ring boundaries, radius 0..4 (R91). -/
def ringBound : List Nat := [0, 4, 16, 36, 64]

/-- The source's `range(a, b, step)`: a, a+step, a+2·step, … strictly below b (R16), for step ≥ 1. -/
def strideRange (a b step : Nat) : List Nat :=
  (List.range ((b - a + (step - 1)) / step)).map fun n => a + n * step

/-- `CIRCLE(r) = { SPIRAL[s] : 0 <= s < CT[r] }` (R93). -/
def circleSet (s : State) (r : Nat) : List Nat :=
  (strideRange 0 (circleCount.getD r 0) 1).map s.lin

/-- `RING(r) = { SPIRAL[s] : RB[r] <= s < RB[r+1] }` (R94). -/
def ringSet (s : State) (r : Nat) : List Nat :=
  (strideRange (ringBound.getD r 0) (ringBound.getD (r + 1) 0) 1).map s.lin

/-- The strided loop of `groups` groups: i in range(0, groups, 1), j in range(i, 57+i, 8), index j + off (R96, R98). -/
def stridedSet (groups off : Nat) : List Nat :=
  (strideRange 0 groups 1).flatMap fun i => (strideRange i (57 + i) 8).map fun j => j + off

/-- A contiguous block: off + j for j in 0..count-1 (R95, R97). -/
def blockSet (off count : Nat) : List Nat := (strideRange 0 count 1).map fun j => off + j

/-- HALF(side) (R95, R96). -/
def halfSet : Side → List Nat
  | .left => blockSet 1 32
  | .right => blockSet 33 32
  | .top => stridedSet 4 1
  | .bottom => stridedSet 4 5

/-- Q24(side) (R97, R98). -/
def quarterSet : Side → List Nat
  | .left => blockSet 1 24
  | .right => blockSet 41 24
  | .top => stridedSet 3 1
  | .bottom => stridedSet 3 6

/-- All linear indices 1..N (R100). -/
def allSet : List Nat := blockSet 1 Config.numLeds

end Sys2Proof.Machine
end

