-- ==== Sys2Proof/Machine/Pattern.lean ====
section
/-! DEFINITION. The six pattern commands (spec/43_pattern_indexer.md). Each checks its operand, writes its index set and
transmits (R99); an operand error changes nothing and transmits nothing (R117). -/

namespace Sys2Proof.Machine

/-- FILL (R100). -/
def execFill (c : Colour) (s : State) : Host.Outcome State Fault Refusal :=
  .next (whenInit (patternApply allSet c) s)

/-- CLEAR (R101): colour 0, whatever COLOR holds (R64). -/
def execClear (s : State) : Host.Outcome State Fault Refusal :=
  .next (whenInit (patternApply allSet 0x000000) s)

/-- FILLED_CIRCLE (R102). -/
def execFilledCircle (r : Nat) (c : Colour) (s : State) : Host.Outcome State Fault Refusal :=
  .next (whenInit (fun t => if radiusOk r then patternApply (circleSet t r) c t else raise .invalidRadius t) s)

/-- RING (R103). -/
def execRing (r : Nat) (c : Colour) (s : State) : Host.Outcome State Fault Refusal :=
  .next (whenInit (fun t => if radiusOk r then patternApply (ringSet t r) c t else raise .invalidRadius t) s)

/-- FILL_HALF (R104). -/
def execFillHalf (sd : Nat) (c : Colour) (s : State) : Host.Outcome State Fault Refusal :=
  .next (whenInit (fun t =>
    match sideOf sd with
    | some side => patternApply (halfSet side) c t
    | none => raise .invalidSide t) s)

/-- FILL_QUARTER24 (R105). -/
def execFillQuarter24 (sd : Nat) (c : Colour) (s : State) : Host.Outcome State Fault Refusal :=
  .next (whenInit (fun t =>
    match sideOf sd with
    | some side => patternApply (quarterSet side) c t
    | none => raise .invalidSide t) s)

end Sys2Proof.Machine
end

