-- ==== Sys2Proof/Machine/Serializer.lean ====
section
/-! DEFINITION. SERIALIZE and RENDER (spec/42_serializer.md). -/

namespace Sys2Proof.Machine

/-- SERIALIZE (R87): the frame goes to the host, nothing goes to the bus. -/
def execSerialize (s : State) : Host.Outcome State Fault Refusal :=
  .next (whenInit (fun t => respond .ok false 0x000000 t.ser t) s)

/-- RENDER (R88): the frame as it stands goes to the bus. -/
def execRender (s : State) : Host.Outcome State Fault Refusal := .next (whenInit transmit s)

end Sys2Proof.Machine
end

