-- ==== Sys2Proof/Machine/Dispatch.lean ====
section
/-! DEFINITION. One arm per constructor of Instr (spec/30_encoding.md R66). -/

namespace Sys2Proof.Machine

def exec (i : Instr) (s : State) : Host.Outcome State Fault Refusal :=
  match i with
  -- frame buffer commands
  | .init b8 => Sys2Proof.Machine.execInit b8 s
  | .setPixel k c => Sys2Proof.Machine.execSetPixel k c s
  | .getPixel k => Sys2Proof.Machine.execGetPixel k s
  | .setPixelSpiral p c => Sys2Proof.Machine.execSetPixelSpiral p c s
  | .getPixelSpiral p => Sys2Proof.Machine.execGetPixelSpiral p s
  -- serializer
  | .serialize => Sys2Proof.Machine.execSerialize s
  | .render => Sys2Proof.Machine.execRender s
  -- pattern commands
  | .fill c => Sys2Proof.Machine.execFill c s
  | .clear => Sys2Proof.Machine.execClear s
  | .filledCircle r c => Sys2Proof.Machine.execFilledCircle r c s
  | .ring r c => Sys2Proof.Machine.execRing r c s
  | .fillHalf sd c => Sys2Proof.Machine.execFillHalf sd c s
  | .fillQuarter24 sd c => Sys2Proof.Machine.execFillQuarter24 sd c s

end Sys2Proof.Machine
end

