-- ==== Sys2Proof/Machine/Step.lean ====
section
/-! DEFINITION. One step of the block, and placing a command word at its command port. -/

namespace Sys2Proof.Machine

/-- STEP (R66) with what surrounds it. RST with no command in flight is the reset event, and with one in flight it is
refused (R131, I2). A block whose transmission is unanswered waits for the answer (R125). An idle block with nothing
offered waits for the host (R132). Otherwise the offered word is taken with BUSY = 1 (R32) and decoded: an illegal one
raises IllegalCommand before anything else is looked at (R110, R119), a command is executed. -/
def step (s : State) : Host.Outcome State Fault Refusal :=
  if s.rstIn then
    if s.busy then .refused .resetWhileBusy else .next (resetEvent s)
  else if s.busy then .next (awaitAnswer s)
  else
    match s.cmdIn with
    | none => .next s
    | some w =>
      match decode w with
      | .error _ => .next (raise .illegalCommand (accept s))
      | .ok i => exec i (accept s)

/-- The state in which the host offers the word whose bits are `w` and the port is ready, so that the very next step
takes it and runs it. The block fetches nothing (R55): the command port stands where another machine has a program
counter, and nothing else of the state is touched than what the port's readiness needs (log 4). -/
def State.withFetchWord (s : State) (nbits w : Nat) : State :=
  { s with cmdIn := some (commandWord nbits w), busy := false, inFlight := none, rstIn := false }

end Sys2Proof.Machine
end

