-- ==== Sys2Proof/Machine/Asm.lean ====
section
/-! DEFINITION. The textual form of a command, one line to one 40-bit word (spec/30_encoding.md R68). -/

namespace Sys2Proof.Machine

/-- The value of a digit in base 16, either case; a decimal digit is one below 10. -/
def digitVal (ch : Char) : Option Nat :=
  let n := ch.toNat
  if 48 ≤ n ∧ n ≤ 57 then some (n - 48)
  else if 97 ≤ n ∧ n ≤ 102 then some (n - 87)
  else if 65 ≤ n ∧ n ≤ 70 then some (n - 55)
  else none

/-- One more digit of a number read so far. -/
def addDigit (base : Nat) (acc : Option Nat) (ch : Char) : Option Nat :=
  match acc, digitVal ch with
  | some n, some d => if d < base then some (n * base + d) else none
  | _, _ => none

/-- A non-empty run of digits. -/
def digits (base : Nat) : List Char → Option Nat
  | [] => none
  | cs => cs.foldl (addDigit base) (some 0)

/-- A hexadecimal number, with `0x`. -/
def hexNumber : List Char → Option Nat
  | '0' :: 'x' :: cs => digits 16 cs
  | _ => none

/-- "Numbers are decimal, or hexadecimal with `0x`". -/
def number : List Char → Option Nat
  | '0' :: 'x' :: cs => digits 16 cs
  | cs => digits 10 cs

/-- A number of at most `bits` bits: "An operand that does not fit its field … is an assembly error". -/
def fits (bits : Nat) (n : Option Nat) : Option Nat :=
  match n with
  | some v => if v < 2 ^ bits then some v else none
  | none => none

/-- An 8-bit operand. -/
def byteOperand (cs : List Char) : Option Nat := fits 8 (number cs)

/-- A colour operand. -/
def colourOperand (cs : List Char) : Option Colour := (fits 24 (number cs)).map (BitVec.ofNat 24)

/-- "A side may be written LEFT, RIGHT, TOP or BOTTOM (ARG 0..3), or as a number". -/
def sideOperand (cs : List Char) : Option Nat :=
  if cs = ['L', 'E', 'F', 'T'] then some 0
  else if cs = ['R', 'I', 'G', 'H', 'T'] then some 1
  else if cs = ['T', 'O', 'P'] then some 2
  else if cs = ['B', 'O', 'T', 'T', 'O', 'M'] then some 3
  else byteOperand cs

/-- Without the blanks at both ends. -/
def trim (cs : List Char) : List Char :=
  ((cs.dropWhile (· = ' ')).reverse.dropWhile (· = ' ')).reverse

/-- The pieces between commas; the text has at least one piece. -/
def commaPieces : List Char → List (List Char)
  | [] => [[]]
  | ch :: cs =>
    if ch = ',' then [] :: commaPieces cs
    else
      match commaPieces cs with
      | [] => [[ch]]
      | p :: ps => (ch :: p) :: ps

/-- The operands of a line, "separated by commas"; blank text has none. -/
def operandTexts (cs : List Char) : List (List Char) :=
  match trim cs with
  | [] => []
  | t => (commaPieces t).map trim

/-- A command of one ARG operand. -/
def asmArg (mk : Nat → Instr) (arg : List Char → Option Nat) : List (List Char) → Option Instr
  | [a] => (arg a).map mk
  | _ => none

/-- A command of an ARG and a COLOR operand. -/
def asmArgColour (mk : Nat → Colour → Instr) (arg : List Char → Option Nat) : List (List Char) → Option Instr
  | [a, c] =>
    match arg a, colourOperand c with
    | some n, some k => some (mk n k)
    | _, _ => none
  | _ => none

/-- A command of a COLOR operand. -/
def asmColour (mk : Colour → Instr) : List (List Char) → Option Instr
  | [c] => (colourOperand c).map mk
  | _ => none

/-- A command without operands. -/
def asmPlain (i : Instr) : List (List Char) → Option Instr
  | [] => some i
  | _ => none

/-- The mnemonics of R61, each with its operand form. -/
def asmTable : List (List Char × (List (List Char) → Option Instr)) :=
  [ (['I', 'N', 'I', 'T'], asmArg .init byteOperand),
    (['S', 'E', 'T', '_', 'P', 'I', 'X', 'E', 'L'], asmArgColour .setPixel byteOperand),
    (['G', 'E', 'T', '_', 'P', 'I', 'X', 'E', 'L'], asmArg .getPixel byteOperand),
    (['S', 'E', 'T', '_', 'P', 'I', 'X', 'E', 'L', '_', 'S', 'P', 'I', 'R', 'A', 'L'],
      asmArgColour .setPixelSpiral byteOperand),
    (['G', 'E', 'T', '_', 'P', 'I', 'X', 'E', 'L', '_', 'S', 'P', 'I', 'R', 'A', 'L'],
      asmArg .getPixelSpiral byteOperand),
    (['S', 'E', 'R', 'I', 'A', 'L', 'I', 'Z', 'E'], asmPlain .serialize),
    (['R', 'E', 'N', 'D', 'E', 'R'], asmPlain .render),
    (['F', 'I', 'L', 'L'], asmColour .fill),
    (['C', 'L', 'E', 'A', 'R'], asmPlain .clear),
    (['F', 'I', 'L', 'L', 'E', 'D', '_', 'C', 'I', 'R', 'C', 'L', 'E'], asmArgColour .filledCircle byteOperand),
    (['R', 'I', 'N', 'G'], asmArgColour .ring byteOperand),
    (['F', 'I', 'L', 'L', '_', 'H', 'A', 'L', 'F'], asmArgColour .fillHalf sideOperand),
    (['F', 'I', 'L', 'L', '_', 'Q', 'U', 'A', 'R', 'T', 'E', 'R', '2', '4'],
      asmArgColour .fillQuarter24 sideOperand) ]

/-- The command of a mnemonic and its operands; a name that is no mnemonic is an assembly error. -/
def asmInstr (name : List Char) (ops : List (List Char)) : Option Instr :=
  match asmTable.find? fun row => decide (row.1 = name) with
  | some row => row.2 ops
  | none => none

/-- `.word40 <hex>` writes any 40-bit word. -/
def asmWord40 : List (List Char) → Option Command
  | [w] => (fits 40 (hexNumber w)).map (BitVec.ofNat 40)
  | _ => none

/-- The word of a first word and its operand texts: a `.word40` line or a command's. -/
def assembleParts (name : List Char) (ops : List (List Char)) : Option Command :=
  if name = ['.', 'w', 'o', 'r', 'd', '4', '0'] then asmWord40 ops else (asmInstr name ops).map encode

/-- One line: "the mnemonic of rule R61, then its operands separated by commas" (R68). None is an assembly error. -/
def assembleLine (line : List Char) : Option Command :=
  let t := trim line
  assembleParts (t.takeWhile (· ≠ ' ')) (operandTexts (t.dropWhile (· ≠ ' ')))

end Sys2Proof.Machine
end

