-- ==== Sys2Proof/Machine/Ports.lean ====
section
/-! DEFINITION. What the two agents outside the block can do to it between its steps (spec/60_exceptions.md R125,
R126; spec/10_state.md R32 to R35). -/

namespace Sys2Proof.Machine

/-- The command port is ready for a word: no command is in flight, none waits on the port, and RST is not asserted
(R32, R131). -/
def portReady (s : State) : Bool := !s.busy && s.cmdIn.isNone && !s.rstIn

/-- The host offers a command word, "only while the port is ready" (R126). -/
def offerCommand (w : Command) (s : State) : Option State :=
  if portReady s then some { s with cmdIn := some w } else none

/-- The host asserts RST: its "liberty, at any time when no command is in flight" (R126). -/
def assertReset (s : State) : Option State :=
  if s.busy then none else some { s with rstIn := true }

/-- The bus sink has one more answer ready (R125): the sink's liberty, at any time. -/
def sinkAnswers (a : BusAnswer) (s : State) : State := { s with busIn := s.busIn ++ [a] }

end Sys2Proof.Machine
end

