-- ==== Sys2Proof/Safety.lean ====
section
/-! DEFINITION. What counts as a safe state and a safe run, in the terms the statements use. -/

namespace Sys2Proof.Machine

/-- The spiral table is a bijection onto 1..N: "`sorted(spiralTable) == [1..N]`" (R8, R26). -/
abbrev State.spiralOk (s : State) : Prop := (s.spiral.toList.map BitVec.toNat).Perm (List.range' 1 64)

/-- Every pixel word of a constructed buffer carries the marker and the global brightness (R25). -/
def State.pixelsMarked (s : State) : Prop :=
  s.init = true → ∀ k, 1 ≤ k → k ≤ 64 →
    (s.fb k).extractLsb' 5 3 = 0b111#3 ∧ (s.fb k).extractLsb' 0 5 = s.bright

/-- The bytes of one frame as R89 and R74 describe them: 264 bytes, a start word of zeros, an end word of ones, and one
brightness byte `0xE0 | b` at the head of all 64 pixels. -/
def frameShape (bytes : List Byte) : Prop :=
  bytes.length = 264 ∧
  (∀ m, m < 4 → bytes[m]? = some 0x00#8) ∧
  (∀ m, m < 4 → bytes[260 + m]? = some 0xFF#8) ∧
  ∃ b : Brightness, ∀ k, 1 ≤ k → k ≤ 64 → bytes[4 * k]? = some (0b111#3 ++ b : Byte)

/-- A response has the form of R60: an error carries nothing but its code (R116), InvalidBrightness is never raised
(R118), and a stream is empty or a whole frame. -/
def responseShape (r : Response) : Prop :=
  r.status ≠ .invalidBrightness ∧
  (r.status ≠ .ok → r.warn = false ∧ r.data = 0 ∧ r.stream = []) ∧
  (r.stream = [] ∨ frameShape r.stream)

/-- The invariant of the block: what every step keeps. -/
structure State.Inv (s : State) : Prop where
  /-- SPIRAL is a bijection onto 1..64 (R8). -/
  spiral : s.spiralOk
  /-- Marker and brightness of the pixel words (R25). -/
  marked : s.pixelsMarked
  /-- A command is in flight between steps exactly when its frame waits for the sink's answer (R31, R85). -/
  busy : s.busy = s.inFlight.isSome
  /-- The frame in flight is the whole buffer as it stands, of a constructed buffer (R51). -/
  flight : ∀ bytes, s.inFlight = some bytes → s.init = true ∧ bytes = s.ser
  /-- Every response given has the form of R60. -/
  responses : ∀ r ∈ s.responses, responseShape r
  /-- Every frame sent has the form of R89. -/
  frames : ∀ f ∈ s.frames, frameShape f.bytes

/-- The block is between commands and RST is not asserted: it takes the next word offered (R121). -/
def State.idle (s : State) : Prop := s.busy = false ∧ s.rstIn = false

/-- The host sends one command word to the port and the block takes a step. -/
def sendCommand (w : Command) (s : State) : Host.Outcome State Fault Refusal := step { s with cmdIn := some w }

/-- A run's commands, one after another, each sent when the one before it has ended its step (R141). -/
def sendCommands : List Command → State → Host.Outcome State Fault Refusal
  | [], s => .next s
  | w :: ws, s =>
    match sendCommand w s with
    | .next t => sendCommands ws t
    | .fault f => .fault f
    | .refused r => .refused r

/-- `t` is `s` after a command wrote pixel words (which, the statement using this says) and one whole transmission
answered `a`: one more bus frame, SER of the pixels as they now are, one response, OK or IoError, and nothing else
changed (R51, R86). `rest` is what the sink has ready after this answer. -/
def sentAndAnswered (s t : State) (a : BusAnswer) (rest : List BusAnswer) : Prop :=
  t = { s with
    pixels := t.pixels, busy := false, inFlight := none, busIn := rest, frames := ⟨t.ser, a⟩ :: s.frames
    responses := ⟨if a = .ok then .ok else .ioError, false, 0x000000, []⟩ :: s.responses }

/-- `t` is `s` after one response `r` and nothing else: no write, no transmission (R33, R116). -/
def onlyAnswered (s t : State) (r : Response) : Prop := t = { s with busy := false, responses := r :: s.responses }

/-- The commands that use the bus: "RENDER (rule R88) and the pattern commands (rule R99)" (R83). -/
def transmitter : Instr → Bool
  | .init _ => false
  | .setPixel _ _ => false
  | .getPixel _ => false
  | .setPixelSpiral _ _ => false
  | .getPixelSpiral _ => false
  | .serialize => false
  | .render => true
  | .fill _ => true
  | .clear => true
  | .filledCircle _ _ => true
  | .ring _ _ => true
  | .fillHalf _ _ => true
  | .fillQuarter24 _ _ => true

/-- The operand is in the range R59 gives for the command; where ARG is no such operand, always. -/
def operandValid : Instr → Prop
  | .init _ => True
  | .setPixel i _ => 1 ≤ i ∧ i ≤ 64
  | .getPixel i => 1 ≤ i ∧ i ≤ 64
  | .setPixelSpiral p _ => p < 64
  | .getPixelSpiral p => p < 64
  | .serialize => True
  | .render => True
  | .fill _ => True
  | .clear => True
  | .filledCircle r _ => r ≤ 3
  | .ring r _ => r ≤ 3
  | .fillHalf sd _ => sd ≤ 3
  | .fillQuarter24 sd _ => sd ≤ 3

/-- Two states before the first INIT that can differ only in what R133 calls never observed: BRIGHT and FB[1..64]. -/
def sameButUnspecified (s t : State) : Prop :=
  s.init = false ∧ t = { s with bright := t.bright, pixels := t.pixels }

/-- A command's writes to the frame buffer and nothing else of it: the pattern commands' loop over their index set
(R99 to R105), nothing for the others that transmit (RENDER, R88). It says nothing of the commands that do not
transmit. -/
def paintedBy (i : Instr) (s : State) : State :=
  match i with
  | .init _ => s
  | .setPixel _ _ => s
  | .getPixel _ => s
  | .setPixelSpiral _ _ => s
  | .getPixelSpiral _ => s
  | .serialize => s
  | .render => s
  | .fill c => paint allSet c s
  | .clear => paint allSet 0x000000 s
  | .filledCircle r c => paint (circleSet s r) c s
  | .ring r c => paint (ringSet s r) c s
  | .fillHalf sd c => (sideOf sd).elim s fun side => paint (halfSet side) c s
  | .fillQuarter24 sd c => (sideOf sd).elim s fun side => paint (quarterSet side) c s

/-! ### The text of a command (R68) -/

/-- The digits `cs`, most significant first, write the number `n` in a base; a digit above 9 has either case (log 19). -/
def digitsWrite (base : Nat) (cs : List Char) (n : Nat) : Prop :=
  ∃ ds : List Nat, ds ≠ [] ∧ n = Nat.ofDigits base ds.reverse ∧
    List.Forall₂ (fun ch d => d < base ∧ (ch = Nat.digitChar d ∨ ch = (Nat.digitChar d).toUpper)) cs ds

/-- The text `cs` writes the number `n` in hexadecimal, "with `0x`". -/
def hexWrites (cs : List Char) (n : Nat) : Prop := ∃ hs, cs = '0' :: 'x' :: hs ∧ digitsWrite 16 hs n

/-- The text `cs` writes the number `n`: "Numbers are decimal, or hexadecimal with `0x`". -/
def numberWrites (cs : List Char) (n : Nat) : Prop := digitsWrite 10 cs n ∨ hexWrites cs n

/-- The line of a mnemonic with one operand. -/
def lineOne (name a : List Char) : List Char := name ++ ' ' :: a

/-- The line of a mnemonic with two operands, as R68's examples space it. -/
def lineTwo (name a c : List Char) : List Char := name ++ ' ' :: (a ++ ',' :: ' ' :: c)

end Sys2Proof.Machine
end

