-- ==== Sys2Proof/Certificates/Slice0/Obligations.lean ====
section
/-! DEFINITION. The statements for the provers. -/

open Sys2Proof Sys2Proof.Machine

/-! ### The pixel word, the frame and the tables -/

/-- The field layout of R69, the packed form `(zext_32(c) << 8) | 0x000000E0 | zext_32(b)` of R69 and R76, and the
channels of R70. -/
def Obligations.EncoderLaysOutThePixelWord : Prop :=
  ∀ (c : Colour) (b : Brightness),
    enc c b = c ++ 0b111#3 ++ b ∧
    enc c b = (c.setWidth 32 <<< 8) ||| 0x000000E0#32 ||| b.setWidth 32 ∧
    (enc c b).extractLsb' 24 8 = c.extractLsb' 16 8 ∧
    (enc c b).extractLsb' 16 8 = c.extractLsb' 8 8 ∧
    (enc c b).extractLsb' 8 8 = c.extractLsb' 0 8 ∧
    (enc c b).extractLsb' 5 3 = 0b111#3 ∧
    (enc c b).extractLsb' 0 5 = b

/-- R72, and that the three fields are all there is of a word: a word with the marker is the encoding of its own colour
and brightness. -/
def Obligations.EncoderAndDecoderRoundTrip : Prop :=
  (∀ (c : Colour) (b : Brightness),
    colorOf (enc c b) = c ∧ (enc c b).extractLsb' 5 3 = 0b111#3 ∧ (enc c b).extractLsb' 0 5 = b) ∧
  ∀ w : Word, w.extractLsb' 5 3 = 0b111#3 → enc (colorOf w) (w.extractLsb' 0 5) = w

/-- R84 and R44: 264 bytes, byte m of word k at offset 4k+m, little-endian. -/
def Obligations.SerializerIsLittleEndian : Prop :=
  ∀ s : State, s.ser.length = 264 ∧
    ∀ k m, k ≤ 65 → m ≤ 3 → s.ser[4 * k + m]? = some ((s.fb k).extractLsb' (8 * m) 8)

/-- R89: the frame of a constructed buffer. The invariant of R25 stands for "every state reachable with INIT = 1"
(StepKeepsInvariant). -/
def Obligations.FrameOfAConstructedBuffer : Prop :=
  ∀ s : State, s.pixelsMarked → s.init = true →
    s.ser.length = 264 ∧
    (∀ m, m ≤ 3 → s.ser[m]? = some 0x00#8) ∧
    (∀ m, m ≤ 3 → s.ser[260 + m]? = some 0xFF#8) ∧
    ∀ i, 1 ≤ i → i ≤ 64 →
      s.ser[4 * i]? = some (0xE0#8 ||| s.bright.setWidth 8) ∧
      s.ser[4 * i + 1]? = some ((colorOf (s.fb i)).extractLsb' 0 8) ∧
      s.ser[4 * i + 2]? = some ((colorOf (s.fb i)).extractLsb' 8 8) ∧
      s.ser[4 * i + 3]? = some ((colorOf (s.fb i)).extractLsb' 16 8)

/-- R23 and R24: the two hardwired words, which every state reads alike. The two commands that take a linear pixel index,
SET_PIXEL and GET_PIXEL, answer IndexOutOfRange at 0 and at 65 and do nothing else (R78, R79). -/
def Obligations.FrameMarkersAreHardwired : Prop :=
  ∀ s : State, s.fb 0 = 0x00000000#32 ∧ s.fb 65 = 0xFFFFFFFF#32 ∧
    ∀ k, k = 0 ∨ k = 65 → s.init = true →
      (∀ c, ∃ t, exec (.setPixel k c) s = .next t ∧ onlyAnswered s t ⟨.indexOutOfRange, false, 0x000000, []⟩) ∧
      ∃ t, exec (.getPixel k) s = .next t ∧ onlyAnswered s t ⟨.indexOutOfRange, false, 0x000000, []⟩

/-- R41 and R8: every valid spiral index has a linear index in 1..64, and every linear index comes from exactly one. -/
def Obligations.SpiralTranslationIsABijection : Prop :=
  ∀ s : State, s.spiralOk →
    (∀ p, p < 64 → 1 ≤ s.lin p ∧ s.lin p ≤ 64) ∧
    ∀ k, 1 ≤ k → k ≤ 64 → ∃ p, p < 64 ∧ s.lin p = k ∧ ∀ q, q < 64 → s.lin q = k → q = p

/-- R93 and R94: the spiral index sets as predicates over spiral positions. -/
def Obligations.SpiralSetsMeetTheirPredicates : Prop :=
  ∀ (s : State) (r k : Nat), r ≤ 3 →
    (k ∈ circleSet s r ↔ ∃ p, p < ([4, 16, 36, 64] : List Nat).getD r 0 ∧ s.lin p = k) ∧
    (k ∈ ringSet s r ↔ ∃ p, ([0, 4, 16, 36, 64] : List Nat).getD r 0 ≤ p ∧
      p < ([0, 4, 16, 36, 64] : List Nat).getD (r + 1) 0 ∧ s.lin p = k)

/-- R92 for R95 to R98: the source's loops and the closed-form predicates give the same index sets. -/
def Obligations.SideLoopsMeetTheirPredicates : Prop :=
  ∀ k : Nat,
    (k ∈ halfSet .left ↔ 1 ≤ k ∧ k ≤ 32) ∧
    (k ∈ halfSet .right ↔ 33 ≤ k ∧ k ≤ 64) ∧
    (k ∈ halfSet .top ↔ 1 ≤ k ∧ k ≤ 64 ∧ (k - 1) % 8 ≤ 3) ∧
    (k ∈ halfSet .bottom ↔ 1 ≤ k ∧ k ≤ 64 ∧ 4 ≤ (k - 1) % 8) ∧
    (k ∈ quarterSet .left ↔ 1 ≤ k ∧ k ≤ 24) ∧
    (k ∈ quarterSet .right ↔ 41 ≤ k ∧ k ≤ 64) ∧
    (k ∈ quarterSet .top ↔ 1 ≤ k ∧ k ≤ 64 ∧ (k - 1) % 8 ≤ 2) ∧
    (k ∈ quarterSet .bottom ↔ 1 ≤ k ∧ k ≤ 64 ∧ 5 ≤ (k - 1) % 8)

/-- R106, whole: sizes, partitions, inclusions, disjointness, and that every set lies in 1..64. Nodup beside a length
makes it the size of the set. -/
def Obligations.IndexSetProperties : Prop :=
  (∀ s : State, s.spiralOk →
    (∀ r, r ≤ 3 → (circleSet s r).Nodup ∧ (circleSet s r).length = ([4, 16, 36, 64] : List Nat).getD r 0 ∧
      (ringSet s r).Nodup ∧ (ringSet s r).length =
        ([0, 4, 16, 36, 64] : List Nat).getD (r + 1) 0 - ([0, 4, 16, 36, 64] : List Nat).getD r 0 ∧
      (∀ k ∈ circleSet s r, 1 ≤ k ∧ k ≤ 64) ∧ (∀ k ∈ ringSet s r, 1 ≤ k ∧ k ≤ 64) ∧
      (∀ k, k ∈ circleSet s r ↔ ∃ q, q ≤ r ∧ k ∈ ringSet s q)) ∧
    (∀ q r, q ≤ 3 → r ≤ 3 → q ≠ r → ∀ k ∈ ringSet s q, k ∉ ringSet s r) ∧
    (∀ k, 1 ≤ k → k ≤ 64 → ∃ r, r ≤ 3 ∧ k ∈ ringSet s r)) ∧
  (∀ k, 1 ≤ k ∧ k ≤ 64 ↔ k ∈ halfSet .left ∨ k ∈ halfSet .right) ∧
  (∀ k, k ∈ halfSet .left → k ∉ halfSet .right) ∧
  (∀ k, 1 ≤ k ∧ k ≤ 64 ↔ k ∈ halfSet .top ∨ k ∈ halfSet .bottom) ∧
  (∀ k, k ∈ halfSet .top → k ∉ halfSet .bottom) ∧
  (∀ side, (halfSet side).Nodup ∧ (halfSet side).length = 32 ∧ (quarterSet side).Nodup ∧
    (quarterSet side).length = 24 ∧ ∀ k ∈ quarterSet side, k ∈ halfSet side) ∧
  (∀ k, k ∈ quarterSet .left → k ∉ quarterSet .right) ∧
  (∀ k, k ∈ quarterSet .top → k ∉ quarterSet .bottom)

/-! ### Encoding -/

/-- Decoding an encoded well-formed command gives it back, every operand at every value its field holds (R57, R61). -/
def Obligations.DecodeOfEncode : Prop := ∀ i : Instr, i.wellFormed = true → decode (encode i) = .ok i

/-- The other direction: a word that decodes is the encoding of its command on OP and RSV and on every field the command
uses; a field it ignores encodes as 0 (R58, R64, R68). -/
def Obligations.EncodeOfDecode : Prop :=
  ∀ (w : Command) (i : Instr), decode w = .ok i →
    i.wellFormed = true ∧ opField (encode i) = opField w ∧ rsvField w = 0 ∧
    argField (encode i) = (if (opField w).toNat ∈ [6, 7, 8, 9] then 0 else argField w) ∧
    colorField (encode i) = (if (opField w).toNat ∈ [1, 3, 5, 6, 7, 9] then 0 else colorField w)

/-- R63: the illegal words are those with a reserved opcode or RSV ≠ 0, and every other word is a command. -/
def Obligations.IllegalWordsAreTheReservedOnes : Prop :=
  ∀ w : Command,
    ((opField w ∈ [0x0#4, 0xE#4, 0xF#4] ∨ rsvField w ≠ 0b0000#4) ↔ ∃ e, decode w = .error e) ∧
    ((∃ e, decode w = .error e) ∨ ∃ i, decode w = .ok i)

/-- R64: words that differ only in fields their opcode ignores have the same effect, on every state. -/
def Obligations.IgnoredFieldsDoNotMatter : Prop :=
  ∀ (w v : Command) (s : State), s.idle → opField w = opField v → rsvField w = rsvField v →
    ((opField w).toNat ∈ [1, 3, 5] → argField w = argField v → sendCommand w s = sendCommand v s) ∧
    ((opField w).toNat ∈ [6, 7, 9] → sendCommand w s = sendCommand v s) ∧
    ((opField w).toNat = 8 → colorField w = colorField v → sendCommand w s = sendCommand v s)

/-- A sanity statement: words written out from R57 and R61, one per family, decode to the commands they stand for. -/
def Obligations.WrittenOutWordsDecode : Prop :=
  decode 0x10C8000000#40 = .ok (.init 200) ∧
  decode 0x2001FF0000#40 = .ok (.setPixel 1 0xFF0000) ∧
  decode 0x503F123456#40 = .ok (.getPixelSpiral 63) ∧
  decode 0x60AB123456#40 = .ok .serialize ∧
  decode 0xB00100FF00#40 = .ok (.ring 1 0x00FF00) ∧
  decode 0xC00200FF00#40 = .ok (.fillHalf 2 0x00FF00) ∧
  decode 0x5140000000#40 = .error (.reservedField 1) ∧
  decode 0xF000000000#40 = .error (.reservedOpcode 0xF)

/-- R68, form by form: which command each line assembles to, for every text of its operands, and that an operand that
does not fit its field gives none. A number is written in decimal or in hexadecimal, a side also by name, and `.word40`
gives the word itself. Whatever line is accepted, its mnemonic is one of R61 and the word has that mnemonic's opcode, or
it is a `.word40` line; a line with another first word gives none. That one blank follows the mnemonic and a comma, and
that digits above 9 have either case, is log 19. -/
def Obligations.AssemblerWritesEncodings : Prop :=
  (∀ (a : List Char) (n : Nat), numberWrites a n →
    let arg := fun i : Instr => if n ≤ 255 then some (encode i) else none
    assembleLine (lineOne "INIT".toList a) = arg (.init n) ∧
    assembleLine (lineOne "GET_PIXEL".toList a) = arg (.getPixel n) ∧
    assembleLine (lineOne "GET_PIXEL_SPIRAL".toList a) = arg (.getPixelSpiral n)) ∧
  (∀ (a c : List Char) (n m : Nat), numberWrites a n → numberWrites c m →
    let col := BitVec.ofNat 24 m
    let argCol := fun i : Instr => if n ≤ 255 ∧ m ≤ 0xFFFFFF then some (encode i) else none
    assembleLine (lineTwo "SET_PIXEL".toList a c) = argCol (.setPixel n col) ∧
    assembleLine (lineTwo "SET_PIXEL_SPIRAL".toList a c) = argCol (.setPixelSpiral n col) ∧
    assembleLine (lineTwo "FILLED_CIRCLE".toList a c) = argCol (.filledCircle n col) ∧
    assembleLine (lineTwo "RING".toList a c) = argCol (.ring n col) ∧
    assembleLine (lineTwo "FILL_HALF".toList a c) = argCol (.fillHalf n col) ∧
    assembleLine (lineTwo "FILL_QUARTER24".toList a c) = argCol (.fillQuarter24 n col)) ∧
  (∀ (c : List Char) (m : Nat), numberWrites c m →
    let col := BitVec.ofNat 24 m
    let withCol := fun i : Instr => if m ≤ 0xFFFFFF then some (encode i) else none
    assembleLine (lineOne "FILL".toList c) = withCol (.fill col) ∧
    assembleLine (lineTwo "FILL_HALF".toList "LEFT".toList c) = withCol (.fillHalf 0 col) ∧
    assembleLine (lineTwo "FILL_HALF".toList "RIGHT".toList c) = withCol (.fillHalf 1 col) ∧
    assembleLine (lineTwo "FILL_HALF".toList "TOP".toList c) = withCol (.fillHalf 2 col) ∧
    assembleLine (lineTwo "FILL_HALF".toList "BOTTOM".toList c) = withCol (.fillHalf 3 col) ∧
    assembleLine (lineTwo "FILL_QUARTER24".toList "LEFT".toList c) = withCol (.fillQuarter24 0 col) ∧
    assembleLine (lineTwo "FILL_QUARTER24".toList "RIGHT".toList c) = withCol (.fillQuarter24 1 col) ∧
    assembleLine (lineTwo "FILL_QUARTER24".toList "TOP".toList c) = withCol (.fillQuarter24 2 col) ∧
    assembleLine (lineTwo "FILL_QUARTER24".toList "BOTTOM".toList c) = withCol (.fillQuarter24 3 col)) ∧
  (assembleLine "SERIALIZE".toList = some (encode .serialize) ∧
    assembleLine "RENDER".toList = some (encode .render) ∧
    assembleLine "CLEAR".toList = some (encode .clear)) ∧
  (∀ (a : List Char) (n : Nat), hexWrites a n →
    assembleLine (lineOne ".word40".toList a) = if n < 2 ^ 40 then some (BitVec.ofNat 40 n) else none) ∧
  ∀ (line : List Char) (w : Command), assembleLine line = some w →
    let name := (trim line).takeWhile (· ≠ ' ')
    name = ".word40".toList ∨
    ((∃ i : Instr, i.wellFormed = true ∧ w = encode i) ∧
      (name, opField w) ∈
        [("INIT".toList, 0x1#4), ("SET_PIXEL".toList, 0x2#4), ("GET_PIXEL".toList, 0x3#4),
         ("SET_PIXEL_SPIRAL".toList, 0x4#4), ("GET_PIXEL_SPIRAL".toList, 0x5#4), ("SERIALIZE".toList, 0x6#4),
         ("RENDER".toList, 0x7#4), ("FILL".toList, 0x8#4), ("CLEAR".toList, 0x9#4), ("FILLED_CIRCLE".toList, 0xA#4),
         ("RING".toList, 0xB#4), ("FILL_HALF".toList, 0xC#4), ("FILL_QUARTER24".toList, 0xD#4)])

/-! ### The step -/

/-- A step with a command on the port and nothing in flight takes the word, sets BUSY and runs the decoded command:
nothing else is added around exec (R32, R66). -/
def Obligations.StepRunsTheDecodedCommand : Prop :=
  ∀ (s : State) (w : Command) (i : Instr), s.rstIn = false → s.busy = false → s.cmdIn = some w → decode w = .ok i →
    step s = exec i { s with cmdIn := none, busy := true }

/-- R110: an illegal word is answered IllegalCommand in every state of INIT, and nothing else changes. -/
def Obligations.IllegalCommandIsAnsweredFirst : Prop :=
  ∀ (s : State) (w : Command), s.idle →
    opField w ∈ [0x0#4, 0xE#4, 0xF#4] ∨ rsvField w ≠ 0b0000#4 →
    ∃ t, sendCommand w s = .next t ∧
      onlyAnswered { s with cmdIn := none } t ⟨.illegalCommand, false, 0x000000, []⟩

/-- R131: RST with no command in flight. BRIGHT and FB[1..64] are unspecified after it and so left free here; no response,
no transmission, SPIRAL unchanged, the port ready. RST with a command in flight is no step (R131, I2). The state the
machine starts in has the same values. The model's choices in it: RST is used up by the reset and not asserted at the
start (log 5), the refusal by name is how the model takes no step (log 6), and the responses and frames are lists that a
reset keeps and that are empty at the start (log 8). -/
def Obligations.ResetEventGivesResetState : Prop :=
  (∀ s : State, s.rstIn = true → s.busy = false →
    ∃ t, step s = .next t ∧ t.init = false ∧ t.idle ∧ t.fb 0 = 0x00000000#32 ∧ t.fb 65 = 0xFFFFFFFF#32 ∧
      t.spiral = s.spiral ∧ t.responses = s.responses ∧ t.frames = s.frames ∧ t.inFlight = s.inFlight) ∧
  (∀ s : State, s.rstIn = true → s.busy = true → step s = .refused .resetWhileBusy) ∧
  State.reset.init = false ∧ State.reset.idle ∧ State.reset.fb 0 = 0x00000000#32 ∧
  State.reset.fb 65 = 0xFFFFFFFF#32 ∧ State.reset.responses = [] ∧ State.reset.frames = []

/-- R31 and R32: while BUSY = 1 the port accepts nothing; nothing the host can see changes until the response clears
BUSY. A block with nothing in flight and nothing offered stays as it is (R130, R132). -/
def Obligations.BusyIsBackPressure : Prop :=
  (∀ s : State, s.rstIn = false → s.busy = true →
    ∃ t, step s = .next t ∧ t.cmdIn = s.cmdIn ∧ t.init = s.init ∧ t.bright = s.bright ∧ t.pixels = s.pixels ∧
      t.spiral = s.spiral ∧ (t = s ∨ (t.busy = false ∧ ∃ r, t.responses = r :: s.responses))) ∧
  (∀ s : State, s.rstIn = false → s.busy = false → s.cmdIn = none → step s = .next s) ∧
  (∀ (w : Command) (s : State), s.busy = true → offerCommand w s = none)

/-- No step stops but for RST in flight, which the spec says a model must not take as a step (R108, R121, R131). -/
def Obligations.OnlyResetInFlightStops : Prop :=
  ∀ s : State, (∃ t, step s = .next t) ∨ (s.rstIn = true ∧ s.busy = true ∧ step s = .refused .resetWhileBusy)

/-! ### Errors -/

/-- R111: every command but INIT, with every operand, answers NotInitialized while INIT = 0 and changes nothing else. -/
def Obligations.CommandsBeforeInitAreRefused : Prop :=
  ∀ (i : Instr) (s : State), s.init = false → (∀ b8, i ≠ .init b8) →
    ∃ t, exec i s = .next t ∧ onlyAnswered s t ⟨.notInitialized, false, 0x000000, []⟩

/-- R119 with R112 to R114: which error a word reports, in the spec's order, on the fields of the word. In each case the
rest of the state is unchanged and nothing is transmitted (R117), whatever answers the sink has ready. -/
def Obligations.ErrorsComeInPriorityOrder : Prop :=
  ∀ (w : Command) (s : State), s.idle →
    let op := (opField w).toNat
    let arg := argField w
    let reports := fun e : Status =>
      ∃ t, sendCommand w s = .next t ∧ onlyAnswered { s with cmdIn := none } t ⟨e, false, 0x000000, []⟩
    (op ∈ [0, 14, 15] ∨ rsvField w ≠ 0 → reports .illegalCommand) ∧
    (rsvField w = 0 → op ∉ [0, 14, 15] →
      (op ≠ 1 → s.init = false → reports .notInitialized) ∧
      (s.init = true →
        (op ∈ [2, 3] → arg = 0 ∨ 65 ≤ arg → reports .indexOutOfRange) ∧
        (op ∈ [4, 5] → 64 ≤ arg → reports .indexOutOfRange) ∧
        (op ∈ [10, 11] → 4 ≤ arg → reports .invalidRadius) ∧
        (op ∈ [12, 13] → 4 ≤ arg → reports .invalidSide)))

/-- R60 and R118 with the codes of R109: of any word sent to the block, legal or not, a new response has a STATUS code of
the table other than 1, WARN only for an INIT that was clamped, DATA only for the two reading commands, STREAM only (and
then 264 bytes) for SERIALIZE, and none of the three with an error. -/
def Obligations.ResponsesHaveTheirFormat : Prop :=
  ∀ (w : Command) (s t : State), s.idle → sendCommand w s = .next t →
    ∀ r ∈ t.responses, r ∈ s.responses ∨
      (statusCode r.status ∈ [0#4, 2#4, 3#4, 4#4, 5#4, 6#4, 7#4] ∧
        (statusCode r.status ≠ 0#4 → r.warn = false ∧ r.data = 0x000000 ∧ r.stream = []) ∧
        (r.warn = true ↔ ∃ b8, decode w = .ok (.init b8) ∧ 31 < b8) ∧
        (r.data ≠ 0x000000 → ∃ k, decode w = .ok (.getPixel k) ∨ decode w = .ok (.getPixelSpiral k)) ∧
        (r.stream ≠ [] ↔ decode w = .ok .serialize ∧ r.status = .ok) ∧
        (r.stream ≠ [] → r.stream.length = 264))

/-- R117 and R138: a transmission answered IOERR leaves exactly the state one answered OK would, but for the answer in the
bus frame and the STATUS of the response: the writes of the command are kept and one frame was sent. -/
def Obligations.IoErrorKeepsTheWrites : Prop :=
  ∀ (i : Instr) (s : State) (rest : List BusAnswer), transmitter i = true → operandValid i → s.init = true →
    ∃ t, exec i { s with busIn := .ok :: rest } = .next t ∧
      t.frames = ⟨t.ser, .ok⟩ :: s.frames ∧ t.responses = ⟨.ok, false, 0x000000, []⟩ :: s.responses ∧
      exec i { s with busIn := .ioErr :: rest } = .next
        { t with
          frames := ⟨t.ser, .ioErr⟩ :: s.frames
          responses := ⟨.ioError, false, 0x000000, []⟩ :: s.responses }

/-! ### INIT and the pixel commands -/

/-- R77 and R73: for every operand and in every state, a construction included. -/
def Obligations.InitConstructsTheBuffer : Prop :=
  (∀ w : Command, w &&& 0xFF00000000#40 = 0x1000000000#40 → decode w = .ok (.init (argField w))) ∧
  ∀ (b8 : Nat) (s : State), ∃ t, exec (.init b8) s = .next t ∧
    t = { s with
      init := true, bright := t.bright, pixels := t.pixels, busy := false
      responses := ⟨.ok, decide (31 < b8), 0x000000, []⟩ :: s.responses } ∧
    (b8 ≤ 31 → t.bright.toNat = b8) ∧ (31 < b8 → t.bright = 0b11111#5) ∧
    ∀ k, 1 ≤ k → k ≤ 64 → t.fb k = 0x000000#24 ++ 0b111#3 ++ t.bright

/-- R78: the one word, the response and the frame; an index out of range writes nothing. -/
def Obligations.SetPixelWritesOneWord : Prop :=
  (∀ w : Command, w &&& 0xFF00000000#40 = 0x2000000000#40 →
    decode w = .ok (.setPixel (argField w) (colorField w))) ∧
  (∀ (i : Nat) (c : Colour) (s : State), s.init = true → 1 ≤ i → i ≤ 64 →
    ∃ t, exec (.setPixel i c) s = .next t ∧
      onlyAnswered { s with pixels := t.pixels } t ⟨.ok, false, 0x000000, []⟩ ∧
      t.fb i = c ++ 0b111#3 ++ s.bright ∧ ∀ k, k ≠ i → t.fb k = s.fb k) ∧
  ∀ (i : Nat) (c : Colour) (s : State), s.init = true → i = 0 ∨ 65 ≤ i →
    ∃ t, exec (.setPixel i c) s = .next t ∧ onlyAnswered s t ⟨.indexOutOfRange, false, 0x000000, []⟩

/-- R79: DATA is FB[i][31:8] and nothing but the response changes. -/
def Obligations.GetPixelReadsTheColour : Prop :=
  (∀ w : Command, w &&& 0xFF00000000#40 = 0x3000000000#40 → decode w = .ok (.getPixel (argField w))) ∧
  (∀ (i : Nat) (s : State), s.init = true → 1 ≤ i → i ≤ 64 →
    ∃ t, exec (.getPixel i) s = .next t ∧ onlyAnswered s t ⟨.ok, false, (s.fb i).extractLsb' 8 24, []⟩) ∧
  ∀ (i : Nat) (s : State), s.init = true → i = 0 ∨ 65 ≤ i →
    ∃ t, exec (.getPixel i) s = .next t ∧ onlyAnswered s t ⟨.indexOutOfRange, false, 0x000000, []⟩

/-- R80, with SPIRAL any bijection (R8). -/
def Obligations.SetPixelSpiralWritesOneWord : Prop :=
  (∀ w : Command, w &&& 0xFF00000000#40 = 0x4000000000#40 →
    decode w = .ok (.setPixelSpiral (argField w) (colorField w))) ∧
  (∀ (p : Nat) (c : Colour) (s : State), s.spiralOk → s.init = true → p < 64 →
    ∃ t, exec (.setPixelSpiral p c) s = .next t ∧
      onlyAnswered { s with pixels := t.pixels } t ⟨.ok, false, 0x000000, []⟩ ∧
      t.fb (s.lin p) = c ++ 0b111#3 ++ s.bright ∧ ∀ k, k ≠ s.lin p → t.fb k = s.fb k) ∧
  ∀ (p : Nat) (c : Colour) (s : State), s.init = true → 64 ≤ p →
    ∃ t, exec (.setPixelSpiral p c) s = .next t ∧ onlyAnswered s t ⟨.indexOutOfRange, false, 0x000000, []⟩

/-- R81. -/
def Obligations.GetPixelSpiralReadsTheColour : Prop :=
  (∀ w : Command, w &&& 0xFF00000000#40 = 0x5000000000#40 → decode w = .ok (.getPixelSpiral (argField w))) ∧
  (∀ (p : Nat) (s : State), s.init = true → p < 64 →
    ∃ t, exec (.getPixelSpiral p) s = .next t ∧
      onlyAnswered s t ⟨.ok, false, (s.fb (s.lin p)).extractLsb' 8 24, []⟩) ∧
  ∀ (p : Nat) (s : State), s.init = true → 64 ≤ p →
    ∃ t, exec (.getPixelSpiral p) s = .next t ∧ onlyAnswered s t ⟨.indexOutOfRange, false, 0x000000, []⟩

/-- R82: the spiral commands are the linear ones at SPIRAL[s], and the 64 spiral writes, sent one after another, leave
every pixel written and nothing transmitted. -/
def Obligations.SpiralCommandsAreLinearOnes : Prop :=
  (∀ (p : Nat) (c : Colour) (s : State), s.spiralOk → p < 64 →
    exec (.setPixelSpiral p c) s = exec (.setPixel (s.lin p) c) s ∧
    exec (.getPixelSpiral p) s = exec (.getPixel (s.lin p)) s) ∧
  ∀ (c : Colour) (s : State), s.spiralOk → s.init = true → s.idle →
    ∃ t, sendCommands ((List.range 64).map fun p => encode (.setPixelSpiral p c)) s = .next t ∧
      (∀ k, 1 ≤ k → k ≤ 64 → t.fb k = c ++ 0b111#3 ++ s.bright) ∧ t.frames = s.frames ∧
      t.responses = List.replicate 64 ⟨.ok, false, 0x000000, []⟩ ++ s.responses

/-- The source's round trip (R72): reading a pixel back through the port gives the colour just written to it. -/
def Obligations.GetAfterSetGivesTheColour : Prop :=
  ∀ (i : Nat) (c : Colour) (s : State), s.init = true → s.idle → 1 ≤ i → i ≤ 64 →
    ∃ t, sendCommands [encode (.setPixel i c), encode (.getPixel i)] s = .next t ∧
      t.responses = ⟨.ok, false, c, []⟩ :: ⟨.ok, false, 0x000000, []⟩ :: s.responses ∧ t.frames = s.frames

/-! ### SERIALIZE and RENDER -/

/-- R87: STREAM is the 264 bytes of SER, nothing else changes, no transmission. -/
def Obligations.SerializeReturnsTheFrame : Prop :=
  (∀ w : Command, w &&& 0xFF00000000#40 = 0x6000000000#40 → decode w = .ok .serialize) ∧
  ∀ s : State, s.init = true →
    ∃ t bytes, exec .serialize s = .next t ∧ onlyAnswered s t ⟨.ok, false, 0x000000, bytes⟩ ∧
      bytes.length = 264 ∧ ∀ k m, k ≤ 65 → m ≤ 3 → bytes[4 * k + m]? = some ((s.fb k).extractLsb' (8 * m) 8)

/-- R49: a reading command issued twice gives the same response twice and leaves the buffer as it was. -/
def Obligations.ReadingCommandsAreIdempotent : Prop :=
  ∀ (i : Instr) (s : State), s.init = true →
    (i = .serialize ∨ (∃ k, i = .getPixel k) ∨ ∃ p, i = .getPixelSpiral p) →
    ∃ t u r, exec i s = .next t ∧ exec i t = .next u ∧ onlyAnswered s t r ∧ onlyAnswered t u r

/-- R88 and R86: RENDER sends the frame as it stands and changes no pixel. -/
def Obligations.RenderTransmitsTheFrame : Prop :=
  (∀ w : Command, w &&& 0xFF00000000#40 = 0x7000000000#40 → decode w = .ok .render) ∧
  ∀ (s : State) (a : BusAnswer) (rest : List BusAnswer), s.init = true → s.busIn = a :: rest →
    ∃ t, exec .render s = .next t ∧ sentAndAnswered s t a rest ∧ t.pixels = s.pixels

/-- R83 and R99: a command that is neither RENDER nor a pattern command leaves the bus port alone, whatever it answers;
one of the seven with a valid operand sends exactly one frame, the buffer after its writes (R51). -/
def Obligations.OnlyRenderAndPatternsTransmit : Prop :=
  (∀ (i : Instr) (s t : State), transmitter i = false → exec i s = .next t →
    t.frames = s.frames ∧ t.inFlight = s.inFlight ∧ t.busIn = s.busIn) ∧
  ∀ (i : Instr) (s : State) (a : BusAnswer) (rest : List BusAnswer), transmitter i = true → operandValid i →
    s.init = true → s.busIn = a :: rest → ∃ t, exec i s = .next t ∧ sentAndAnswered s t a rest

/-- R125: while the sink has not answered, a transmitting command has no response, BUSY is 1, its writes are made
(`paintedBy`: the pixel words of its index set painted, every other as before), the frame of the buffer after them is in
flight, and the block is stuck: any number of steps leaves it as it is. That the wait is steps that change nothing is the
model's form of it (log 7). -/
def Obligations.SilentSinkLeavesTheBlockStuck : Prop :=
  ∀ (i : Instr) (s : State), transmitter i = true → operandValid i → s.init = true → s.rstIn = false → s.busIn = [] →
    ∃ t, exec i s = .next t ∧
      t = { s with
        pixels := (paintedBy i s).pixels, busy := true, inFlight := some (paintedBy i s).ser } ∧
      ∀ n, Sys2Proof.core.run n t = .next t

/-- R52: an answer that comes late ends the command in the very state an answer that was there at once would have. -/
def Obligations.LateAnswerEndsTheCommandAlike : Prop :=
  ∀ (i : Instr) (s t : State) (a : BusAnswer) (rest : List BusAnswer), transmitter i = true → operandValid i →
    s.init = true → s.rstIn = false → exec i { s with busIn := [] } = .next t →
    step { t with busIn := a :: rest } = exec i { s with busIn := a :: rest }

/-! ### The pattern commands -/

/-- R100 with R107. -/
def Obligations.FillPaintsEveryPixel : Prop :=
  (∀ w : Command, w &&& 0xFF00000000#40 = 0x8000000000#40 → decode w = .ok (.fill (colorField w))) ∧
  ∀ (c : Colour) (s : State) (a : BusAnswer) (rest : List BusAnswer), s.init = true → s.busIn = a :: rest →
    ∃ t, exec (.fill c) s = .next t ∧ sentAndAnswered s t a rest ∧
      ∀ k, t.fb k = if 1 ≤ k ∧ k ≤ 64 then c ++ 0b111#3 ++ s.bright else s.fb k

/-- R101, and that it is `fill(0)` in every state. -/
def Obligations.ClearPaintsEveryPixelBlack : Prop :=
  (∀ w : Command, w &&& 0xFF00000000#40 = 0x9000000000#40 → decode w = .ok .clear) ∧
  (∀ s : State, exec .clear s = exec (.fill 0x000000) s) ∧
  ∀ (s : State) (a : BusAnswer) (rest : List BusAnswer), s.init = true → s.busIn = a :: rest →
    ∃ t, exec .clear s = .next t ∧ sentAndAnswered s t a rest ∧
      ∀ k, t.fb k = if 1 ≤ k ∧ k ≤ 64 then 0x000000#24 ++ 0b111#3 ++ s.bright else s.fb k

/-- R102 with R93 and R107. -/
def Obligations.FilledCirclePaintsASpiralPrefix : Prop :=
  (∀ w : Command, w &&& 0xFF00000000#40 = 0xA000000000#40 →
    decode w = .ok (.filledCircle (argField w) (colorField w))) ∧
  (∀ (r : Nat) (c : Colour) (s : State) (a : BusAnswer) (rest : List BusAnswer), s.spiralOk → s.init = true → r ≤ 3 →
    s.busIn = a :: rest →
    ∃ t, exec (.filledCircle r c) s = .next t ∧ sentAndAnswered s t a rest ∧
      (∀ p, p < ([4, 16, 36, 64] : List Nat).getD r 0 → t.fb (s.lin p) = c ++ 0b111#3 ++ s.bright) ∧
      ∀ k, (∀ p, p < ([4, 16, 36, 64] : List Nat).getD r 0 → s.lin p ≠ k) → t.fb k = s.fb k) ∧
  ∀ (r : Nat) (c : Colour) (s : State), s.init = true → 4 ≤ r →
    ∃ t, exec (.filledCircle r c) s = .next t ∧ onlyAnswered s t ⟨.invalidRadius, false, 0x000000, []⟩

/-- R103 with R94 and R107. -/
def Obligations.RingPaintsOneSpiralRing : Prop :=
  (∀ w : Command, w &&& 0xFF00000000#40 = 0xB000000000#40 → decode w = .ok (.ring (argField w) (colorField w))) ∧
  (∀ (r : Nat) (c : Colour) (s : State) (a : BusAnswer) (rest : List BusAnswer), s.spiralOk → s.init = true → r ≤ 3 →
    s.busIn = a :: rest →
    let lo := ([0, 4, 16, 36, 64] : List Nat).getD r 0
    let hi := ([0, 4, 16, 36, 64] : List Nat).getD (r + 1) 0
    ∃ t, exec (.ring r c) s = .next t ∧ sentAndAnswered s t a rest ∧
      (∀ p, lo ≤ p → p < hi → t.fb (s.lin p) = c ++ 0b111#3 ++ s.bright) ∧
      ∀ k, (∀ p, lo ≤ p → p < hi → s.lin p ≠ k) → t.fb k = s.fb k) ∧
  ∀ (r : Nat) (c : Colour) (s : State), s.init = true → 4 ≤ r →
    ∃ t, exec (.ring r c) s = .next t ∧ onlyAnswered s t ⟨.invalidRadius, false, 0x000000, []⟩

/-- R104 with R62, R95, R96 and R107: sides 0 to 3 are Left, Right, Top, Bottom. -/
def Obligations.FillHalfPaintsOneHalf : Prop :=
  (∀ w : Command, w &&& 0xFF00000000#40 = 0xC000000000#40 → decode w = .ok (.fillHalf (argField w) (colorField w))) ∧
  (∀ (sd : Nat) (c : Colour) (s : State) (a : BusAnswer) (rest : List BusAnswer), s.init = true → sd ≤ 3 →
    s.busIn = a :: rest →
    ∃ t, exec (.fillHalf sd c) s = .next t ∧ sentAndAnswered s t a rest ∧
      ∀ k, t.fb k =
        if 1 ≤ k ∧ k ≤ 64 ∧ ((sd = 0 ∧ k ≤ 32) ∨ (sd = 1 ∧ 33 ≤ k) ∨ (sd = 2 ∧ (k - 1) % 8 ≤ 3) ∨
          (sd = 3 ∧ 4 ≤ (k - 1) % 8)) then c ++ 0b111#3 ++ s.bright else s.fb k) ∧
  ∀ (sd : Nat) (c : Colour) (s : State), s.init = true → 4 ≤ sd →
    ∃ t, exec (.fillHalf sd c) s = .next t ∧ onlyAnswered s t ⟨.invalidSide, false, 0x000000, []⟩

/-- R105 with R62, R97, R98 and R107. -/
def Obligations.FillQuarterPaints24Pixels : Prop :=
  (∀ w : Command, w &&& 0xFF00000000#40 = 0xD000000000#40 →
    decode w = .ok (.fillQuarter24 (argField w) (colorField w))) ∧
  (∀ (sd : Nat) (c : Colour) (s : State) (a : BusAnswer) (rest : List BusAnswer), s.init = true → sd ≤ 3 →
    s.busIn = a :: rest →
    ∃ t, exec (.fillQuarter24 sd c) s = .next t ∧ sentAndAnswered s t a rest ∧
      ∀ k, t.fb k =
        if 1 ≤ k ∧ k ≤ 64 ∧ ((sd = 0 ∧ k ≤ 24) ∨ (sd = 1 ∧ 41 ≤ k) ∨ (sd = 2 ∧ (k - 1) % 8 ≤ 2) ∨
          (sd = 3 ∧ 5 ≤ (k - 1) % 8)) then c ++ 0b111#3 ++ s.bright else s.fb k) ∧
  ∀ (sd : Nat) (c : Colour) (s : State), s.init = true → 4 ≤ sd →
    ∃ t, exec (.fillQuarter24 sd c) s = .next t ∧ onlyAnswered s t ⟨.invalidSide, false, 0x000000, []⟩

/-! ### The whole machine -/

/-- The state after reset meets the invariant. That BRIGHT, FB[1..64] and the ports hold the values of logs 2 to 5 and 8
there is the model's choice; the invariant asks nothing of them but that nothing is in flight. -/
def Obligations.ResetMeetsInvariant : Prop := State.reset.Inv

/-- Every step keeps the invariant: SPIRAL a bijection (R8), pixel words marked with BRIGHT (R25), BUSY and the frame in
flight together (R31, R51), responses of the form of R60, frames of the form of R89. -/
def Obligations.StepKeepsInvariant : Prop := ∀ s t : State, s.Inv → step s = .next t → t.Inv

/-- R26: no step changes SPIRAL. -/
def Obligations.SpiralTableIsNeverWritten : Prop := ∀ s t : State, step s = .next t → t.spiral = s.spiral

/-- R19 and R20: only INIT sets the INIT flag and only reset clears it; only INIT and reset write BRIGHT. -/
def Obligations.OnlyInitAndResetWriteTheRegisters : Prop :=
  ∀ s t : State, step s = .next t →
    (t.init ≠ s.init ∨ t.bright ≠ s.bright) →
    (s.rstIn = true ∧ s.busy = false ∧ t.init = false) ∨
    (s.busy = false ∧ t.init = true ∧ ∃ w b8, s.cmdIn = some w ∧ decode w = .ok (.init b8))

/-- R133: what BRIGHT and FB[1..64] hold before the first INIT is never observed. Two runs of the same commands from
states that differ in nothing else show the same responses and bus frames, before and after INIT. -/
def Obligations.UnspecifiedResetValuesAreNeverObserved : Prop :=
  ∀ (ws : List Command) (s t : State), sameButUnspecified s t →
    (∃ r, sendCommands ws s = .refused r ∧ sendCommands ws t = .refused r) ∨
    ∃ s' t', sendCommands ws s = .next s' ∧ sendCommands ws t = .next t' ∧ s'.responses = t'.responses ∧
      s'.frames = t'.frames ∧ s'.inFlight = t'.inFlight ∧ s'.init = t'.init ∧ s'.busy = t'.busy

/-- R33 and R141: a run of any commands, legal or not, with an answer of the sink there for each, gives exactly one
response per command and ends idle; every frame sent uses up one answer. -/
def Obligations.OneResponsePerCommand : Prop :=
  ∀ (ws : List Command) (s : State), s.idle → ws.length ≤ s.busIn.length →
    ∃ t, sendCommands ws s = .next t ∧ t.idle ∧
      t.responses.length = s.responses.length + ws.length ∧
      t.frames.length + t.busIn.length = s.frames.length + s.busIn.length ∧
      t.frames.length ≤ s.frames.length + ws.length
end

