-- ==== Sys2Proof/Laws/Asm.lean ====
section
/-! SUPPORT. One lemma per function of the assembler: what it makes of the text of a number and of a line of one, two or
no operands (R68). -/

namespace Sys2Proof.Machine

/-! ### Numbers -/

/-- A digit of either case has its value, and is neither a blank, a comma nor the `x` of `0x`. -/
theorem digitVal_digit {d : Nat} {ch : Char} (hd : d < 16)
    (h : ch = Nat.digitChar d ∨ ch = (Nat.digitChar d).toUpper) :
    digitVal ch = some d ∧ ch ≠ ' ' ∧ ch ≠ ',' ∧ ch ≠ 'x' := by
  interval_cases d <;> rcases h with rfl | rfl <;> decide

/-- Reading on from `acc`, digit by digit. -/
theorem foldl_addDigit {base : Nat} (hb : base ≤ 16) {cs : List Char} {ds : List Nat}
    (h : List.Forall₂ (fun ch d => d < base ∧ (ch = Nat.digitChar d ∨ ch = (Nat.digitChar d).toUpper)) cs ds)
    (acc : Nat) :
    cs.foldl (addDigit base) (some acc) = some (ds.foldl (fun a d => a * base + d) acc) := by
  induction h generalizing acc with
  | nil => rfl
  | cons hd _ ih =>
    simp only [List.foldl_cons, addDigit, (digitVal_digit (by omega) hd.2).1, hd.1, if_true]
    exact ih _

/-- The assembler reads the number that the digits write. -/
theorem digits_of_digitsWrite {base : Nat} (hb : base ≤ 16) {cs : List Char} {n : Nat} (h : digitsWrite base cs n) :
    digits base cs = some n := by
  obtain ⟨ds, hne, rfl, hf⟩ := h
  have hv : Nat.ofDigits base ds.reverse = ds.foldl (fun a d => a * base + d) 0 := by
    rw [Nat.ofDigits_eq_foldr, List.foldr_reverse]
    congr 1; funext a d; simp [Nat.add_comm, Nat.mul_comm]
  cases hf with
  | nil => exact absurd rfl hne
  | cons hd ht =>
    rw [hv]
    exact foldl_addDigit hb (.cons hd ht) 0

/-- The text of an operand: not empty, and neither blank nor comma in it. -/
def plainText (cs : List Char) : Prop := cs ≠ [] ∧ ∀ ch ∈ cs, ch ≠ ' ' ∧ ch ≠ ','

/-- The same as a computation, for a text that is given. -/
theorem plainText_of_all {cs : List Char} (h : (!cs.isEmpty && cs.all fun ch => ch != ' ' && ch != ',') = true) :
    plainText cs := by
  simp only [Bool.and_eq_true, List.all_eq_true, bne_iff_ne] at h
  exact ⟨by rintro rfl; exact absurd h.1 (by decide), h.2⟩

theorem digitsWrite_chars {base : Nat} (hb : base ≤ 16) {cs : List Char} {n : Nat} (h : digitsWrite base cs n) :
    cs ≠ [] ∧ ∀ ch ∈ cs, ch ≠ ' ' ∧ ch ≠ ',' ∧ ch ≠ 'x' := by
  obtain ⟨ds, hne, -, hf⟩ := h
  refine ⟨by rintro rfl; cases hf; exact hne rfl, fun ch hc => ?_⟩
  obtain ⟨d, -, hd⟩ : ∃ d ∈ ds, d < base ∧ (ch = Nat.digitChar d ∨ ch = (Nat.digitChar d).toUpper) := by
    clear hne
    induction hf with
    | nil => cases hc
    | cons h1 _ ih =>
      rcases List.mem_cons.1 hc with rfl | hc
      · exact ⟨_, List.mem_cons_self, h1⟩
      · obtain ⟨d, h2, h3⟩ := ih hc
        exact ⟨d, List.mem_cons_of_mem _ h2, h3⟩
  exact (digitVal_digit (by omega) hd.2).2

theorem hexNumber_of_hexWrites {cs : List Char} {n : Nat} (h : hexWrites cs n) : hexNumber cs = some n := by
  obtain ⟨hs, rfl, hw⟩ := h
  exact digits_of_digitsWrite (by decide) hw

theorem number_of_numberWrites {cs : List Char} {n : Nat} (h : numberWrites cs n) : number cs = some n := by
  rcases h with h | ⟨hs, rfl, hw⟩
  · have hx := (digitsWrite_chars (by decide) h).2
    unfold number
    split
    · exact absurd rfl (hx 'x' (by simp)).2.2
    · exact digits_of_digitsWrite (by decide) h
  · exact digits_of_digitsWrite (by decide) hw

theorem plainText_of_hexWrites {cs : List Char} {n : Nat} (h : hexWrites cs n) : plainText cs := by
  obtain ⟨hs, rfl, hw⟩ := h
  refine ⟨by simp, fun ch hc => ?_⟩
  rcases List.mem_cons.1 hc with rfl | hc
  · decide
  rcases List.mem_cons.1 hc with rfl | hc
  · decide
  · exact ⟨((digitsWrite_chars (by decide) hw).2 ch hc).1, ((digitsWrite_chars (by decide) hw).2 ch hc).2.1⟩

theorem plainText_of_numberWrites {cs : List Char} {n : Nat} (h : numberWrites cs n) : plainText cs := by
  rcases h with h | h
  · have := digitsWrite_chars (by decide) h
    exact ⟨this.1, fun ch hc => ⟨(this.2 ch hc).1, (this.2 ch hc).2.1⟩⟩
  · exact plainText_of_hexWrites h

/-! ### Operands: none where the number does not fit its field -/

theorem byteOperand_of_numberWrites {cs : List Char} {n : Nat} (h : numberWrites cs n) :
    byteOperand cs = if n ≤ 255 then some n else none := by
  simp only [byteOperand, number_of_numberWrites h, fits]
  exact if_congr (by omega) rfl rfl

theorem colourOperand_of_numberWrites {cs : List Char} {n : Nat} (h : numberWrites cs n) :
    colourOperand cs = if n ≤ 0xFFFFFF then some (BitVec.ofNat 24 n) else none := by
  simp only [colourOperand, number_of_numberWrites h, fits]
  rw [if_congr (show n < 2 ^ 24 ↔ n ≤ 0xFFFFFF by omega) rfl rfl]
  split <;> rfl

/-- The text of a number is the name of no side. -/
theorem sideOperand_of_numberWrites {cs : List Char} {n : Nat} (h : numberWrites cs n) :
    sideOperand cs = byteOperand cs := by
  have hn := number_of_numberWrites h
  unfold sideOperand
  repeat' split
  all_goals first | rfl | (subst_vars; exact absurd hn (by simp [number, digits, addDigit, digitVal]))

/-! ### Lines -/

theorem trim_of_plainText {cs : List Char} (h : plainText cs) : trim cs = cs := by
  obtain ⟨hne, hc⟩ := h
  have ends : ∀ l : List Char, (∀ ch ∈ l, ch ≠ ' ') → l.dropWhile (· = ' ') = l := by
    rintro (_ | ⟨c, l⟩) hl
    · rfl
    · simp [hl c List.mem_cons_self]
  unfold trim
  rw [ends cs fun ch h => (hc ch h).1, ends _ fun ch h => (hc ch (List.mem_reverse.1 h)).1, List.reverse_reverse]

/-- A text with no blank at either end is its own trimming. -/
theorem trim_of_ends {a b : List Char} (ha : plainText a) (hb : plainText b) (m : List Char) :
    trim (a ++ m ++ b) = a ++ m ++ b := by
  obtain ⟨x, xs, rfl⟩ := List.exists_cons_of_ne_nil ha.1
  obtain ⟨ys, y, rfl⟩ : ∃ ys y, b = ys ++ [y] := ⟨_, _, (List.dropLast_append_getLast hb.1).symm⟩
  unfold trim
  have hx := (ha.2 x (by simp)).1
  have hy := (hb.2 y (by simp)).1
  simp [hx, hy]

theorem commaPieces_of_plain {a : List Char} (h : ∀ ch ∈ a, ch ≠ ',') : commaPieces a = [a] := by
  induction a with
  | nil => rfl
  | cons ch cs ih => simp [commaPieces, h ch List.mem_cons_self, ih fun c hc => h c (List.mem_cons_of_mem _ hc)]

theorem commaPieces_append {a : List Char} (h : ∀ ch ∈ a, ch ≠ ',') (b : List Char) :
    commaPieces (a ++ ',' :: b) = a :: commaPieces b := by
  induction a with
  | nil => simp [commaPieces]
  | cons ch cs ih => simp [commaPieces, h ch List.mem_cons_self, ih fun c hc => h c (List.mem_cons_of_mem _ hc)]

theorem trim_blank (cs : List Char) : trim (' ' :: cs) = trim cs := by simp [trim]

theorem operandTexts_one {a : List Char} (ha : plainText a) : operandTexts (' ' :: a) = [a] := by
  obtain ⟨x, xs, rfl⟩ := List.exists_cons_of_ne_nil ha.1
  simp only [operandTexts, trim_blank, trim_of_plainText ha, commaPieces_of_plain fun ch h => (ha.2 ch h).2, List.map]

theorem operandTexts_two {a c : List Char} (ha : plainText a) (hc : plainText c) :
    operandTexts (' ' :: (a ++ ',' :: ' ' :: c)) = [a, c] := by
  have ht : trim (a ++ ',' :: ' ' :: c) = a ++ ',' :: ' ' :: c := by
    have := trim_of_ends ha hc [',', ' ']
    simpa using this
  have hp : commaPieces (a ++ ',' :: ' ' :: c) = [a, ' ' :: c] := by
    rw [commaPieces_append fun ch h => (ha.2 ch h).2, commaPieces_of_plain]
    intro ch h
    rcases List.mem_cons.1 h with rfl | h
    · decide
    · exact (hc.2 ch h).2
  obtain ⟨x, xs, rfl⟩ := List.exists_cons_of_ne_nil ha.1
  simp only [List.cons_append] at ht hp
  simp only [operandTexts, trim_blank, ht, hp, List.cons_append, List.map, trim_of_plainText ha, trim_of_plainText hc]

/-- The first word of a line is its mnemonic and what follows its operands. -/
theorem takeWhile_dropWhile_name {name : List Char} (h : ∀ ch ∈ name, ch ≠ ' ') (rest : List Char) :
    (name ++ ' ' :: rest).takeWhile (· ≠ ' ') = name ∧ (name ++ ' ' :: rest).dropWhile (· ≠ ' ') = ' ' :: rest := by
  induction name with
  | nil => simp
  | cons c cs ih =>
    obtain ⟨h1, h2⟩ := ih fun ch hc => h ch (List.mem_cons_of_mem _ hc)
    have := h c List.mem_cons_self
    simp_all

theorem takeWhile_dropWhile_all {name : List Char} (h : ∀ ch ∈ name, ch ≠ ' ') :
    name.takeWhile (· ≠ ' ') = name ∧ name.dropWhile (· ≠ ' ') = [] := by
  induction name with
  | nil => simp
  | cons c cs ih =>
    obtain ⟨h1, h2⟩ := ih fun ch hc => h ch (List.mem_cons_of_mem _ hc)
    have := h c List.mem_cons_self
    simp_all

theorem assembleLine_none {name : List Char} (hn : plainText name) : assembleLine name = assembleParts name [] := by
  obtain ⟨h1, h2⟩ := takeWhile_dropWhile_all fun ch h => (hn.2 ch h).1
  simp only [assembleLine, trim_of_plainText hn, h1, h2]
  rfl

theorem assembleLine_one {name a : List Char} (hn : plainText name) (ha : plainText a) :
    assembleLine (lineOne name a) = assembleParts name [a] := by
  have ht : trim (lineOne name a) = lineOne name a := by
    simpa [lineOne] using trim_of_ends hn ha [' ']
  obtain ⟨h1, h2⟩ := takeWhile_dropWhile_name (fun ch h => (hn.2 ch h).1) a
  unfold assembleLine
  simp only [ht]
  simp only [lineOne, h1, h2, operandTexts_one ha]

theorem assembleLine_two {name a c : List Char} (hn : plainText name) (ha : plainText a) (hc : plainText c) :
    assembleLine (lineTwo name a c) = assembleParts name [a, c] := by
  have ht : trim (lineTwo name a c) = lineTwo name a c := by
    simpa [lineTwo] using trim_of_ends hn hc (' ' :: (a ++ [',', ' ']))
  obtain ⟨h1, h2⟩ := takeWhile_dropWhile_name (fun ch h => (hn.2 ch h).1) (a ++ ',' :: ' ' :: c)
  unfold assembleLine
  simp only [ht]
  simp only [lineTwo, h1, h2, operandTexts_two ha hc]

/-- Whatever line is accepted, its first word is in the table of mnemonics, whose row read its operands. -/
theorem assembleLine_cases {line : List Char} {w : Command} (h : assembleLine line = some w) :
    (trim line).takeWhile (· ≠ ' ') = ['.', 'w', 'o', 'r', 'd', '4', '0'] ∨
    ∃ row ∈ asmTable, row.1 = (trim line).takeWhile (· ≠ ' ') ∧ ∃ ops i, row.2 ops = some i ∧ w = encode i := by
  simp only [assembleLine, assembleParts] at h
  split at h
  · exact .inl ‹_›
  · obtain ⟨i, hi, rfl⟩ := Option.map_eq_some_iff.1 h
    unfold asmInstr at hi
    split at hi
    · rename_i row hf
      exact .inr ⟨row, List.mem_of_find?_eq_some hf, by simpa using List.find?_some hf, _, i, hi, rfl⟩
    · cases hi

end Sys2Proof.Machine
end

