-- ==== Sys2Proof/Laws/Decode.lean ====
section
/-! SUPPORT. The fields of a word put together by `cmd40`, and what the decoder makes of a word's fields. -/

namespace Sys2Proof

/-- A command word bit by bit: COLOR, ARG, RSV, OP from the least significant bit up (R57). -/
theorem getLsbD_cmd40 (op : BitVec 4) (arg : Nat) (col : Colour) (j : Nat) :
    (cmd40 op arg col).getLsbD j =
      if j < 24 then col.getLsbD j
      else if j < 32 then (BitVec.ofNat 8 arg).getLsbD (j - 24)
      else if j < 36 then false
      else op.getLsbD (j - 36) := by
  have h1 : (cmd40 op arg col).getLsbD j = if j < 24 then col.getLsbD j else
      (op ++ 0b0000#4 ++ BitVec.ofNat 8 arg).getLsbD (j - 24) := BitVec.getLsbD_append
  have h2 : (op ++ 0b0000#4 ++ BitVec.ofNat 8 arg).getLsbD (j - 24) = if j - 24 < 8 then
      (BitVec.ofNat 8 arg).getLsbD (j - 24) else (op ++ 0b0000#4).getLsbD (j - 24 - 8) := BitVec.getLsbD_append
  have h3 : (op ++ 0b0000#4).getLsbD (j - 24 - 8) = if j - 24 - 8 < 4 then
      (0b0000#4).getLsbD (j - 24 - 8) else op.getLsbD (j - 24 - 8 - 4) := BitVec.getLsbD_append
  rw [h1, h2, h3]
  by_cases c1 : j < 24
  · simp [c1]
  by_cases c2 : j < 32
  · simp [c1, c2, show j - 24 < 8 by omega]
  by_cases c3 : j < 36
  · simp [c1, c2, c3, show ¬ j - 24 < 8 by omega, show j - 24 - 8 < 4 by omega]
  · simp [c1, c2, c3, show ¬ j - 24 < 8 by omega, show ¬ j - 24 - 8 < 4 by omega, show j - 24 - 8 - 4 = j - 36 by omega]

@[simp] theorem opField_cmd40 (op : BitVec 4) (arg : Nat) (col : Colour) : opField (cmd40 op arg col) = op := by
  unfold opField
  ext i hi
  simp [getLsbD_cmd40, hi, show ¬ 36 + i < 24 by omega, show ¬ 36 + i < 32 by omega]

@[simp] theorem rsvField_cmd40 (op : BitVec 4) (arg : Nat) (col : Colour) : rsvField (cmd40 op arg col) = 0#4 := by
  unfold rsvField
  ext i hi
  simp [getLsbD_cmd40, show ¬ 32 + i < 24 by omega, show 32 + i < 36 by omega]

theorem argField_cmd40 (op : BitVec 4) (arg : Nat) (col : Colour) (h : arg < 256) :
    argField (cmd40 op arg col) = arg := by
  have e : (cmd40 op arg col).extractLsb' 24 8 = BitVec.ofNat 8 arg := by
    ext i hi
    simp [getLsbD_cmd40, hi, show 24 + i < 32 by omega]
  unfold argField
  rw [e, BitVec.toNat_ofNat]
  omega

@[simp] theorem colorField_cmd40 (op : BitVec 4) (arg : Nat) (col : Colour) : colorField (cmd40 op arg col) = col := by
  unfold colorField
  ext i hi
  simp [getLsbD_cmd40, hi]

/-- The mask of the opcode table keeps OP and RSV (R61). -/
theorem cmd40_and_mask (op : BitVec 4) (arg : Nat) (col : Colour) :
    cmd40 op arg col &&& 0xFF00000000#40 = cmd40 op 0 0 := by
  have hm : ∀ j, (0xFF00000000#40).getLsbD j = decide (32 ≤ j ∧ j < 40) := by
    intro j
    by_cases hj : j < 40
    · revert j; decide
    · rw [BitVec.getLsbD_of_ge (0xFF00000000#40) j (by omega)]; simp [hj]
  apply BitVec.eq_of_getLsbD_eq
  intro j hj
  rw [BitVec.getLsbD_and, hm, getLsbD_cmd40, getLsbD_cmd40]
  by_cases c2 : j < 32
  · simp [show ¬ 32 ≤ j by omega, c2]
  · simp [show ¬ j < 24 by omega, c2, show 32 ≤ j by omega, hj]

/-- A word with RSV = 0 is what the opcode map says of its fields. -/
theorem decode_of_rsv_zero {w : Command} (h : rsvField w = 0#4) :
    decode w = decodeOp (opField w) (argField w) (colorField w) := by simp [decode, h]

/-- A word with RSV ≠ 0 is illegal. -/
theorem decode_of_rsv_ne_zero {w : Command} (h : rsvField w ≠ 0#4) :
    decode w = .error (.reservedField (rsvField w)) := by simp [decode, h]

/-- An ARG field is a well-formed operand. -/
theorem argField_lt (w : Command) : argField w < 256 := by unfold argField; omega

end Sys2Proof
end

