-- ==== Sys2Proof/Laws/State.lean ====
section
/-! SUPPORT. What each shared state update does to each field, once, so that no later proof unfolds a record update. -/

namespace Sys2Proof.Machine

variable (s : State)

/-! ### respond -/

@[simp] theorem respond_init (st : Status) (warn : Bool) (data : Colour) (stream : List Byte) : (respond st warn data stream s).init = s.init := rfl
@[simp] theorem respond_bright (st : Status) (warn : Bool) (data : Colour) (stream : List Byte) : (respond st warn data stream s).bright = s.bright := rfl
@[simp] theorem respond_pixels (st : Status) (warn : Bool) (data : Colour) (stream : List Byte) : (respond st warn data stream s).pixels = s.pixels := rfl
@[simp] theorem respond_busy (st : Status) (warn : Bool) (data : Colour) (stream : List Byte) : (respond st warn data stream s).busy = false := rfl
@[simp] theorem respond_spiral (st : Status) (warn : Bool) (data : Colour) (stream : List Byte) : (respond st warn data stream s).spiral = s.spiral := rfl
@[simp] theorem respond_cmdIn (st : Status) (warn : Bool) (data : Colour) (stream : List Byte) : (respond st warn data stream s).cmdIn = s.cmdIn := rfl
@[simp] theorem respond_rstIn (st : Status) (warn : Bool) (data : Colour) (stream : List Byte) : (respond st warn data stream s).rstIn = s.rstIn := rfl
@[simp] theorem respond_busIn (st : Status) (warn : Bool) (data : Colour) (stream : List Byte) : (respond st warn data stream s).busIn = s.busIn := rfl
@[simp] theorem respond_inFlight (st : Status) (warn : Bool) (data : Colour) (stream : List Byte) : (respond st warn data stream s).inFlight = s.inFlight := rfl
@[simp] theorem respond_responses (st : Status) (warn : Bool) (data : Colour) (stream : List Byte) : (respond st warn data stream s).responses = ⟨st, warn, data, stream⟩ :: s.responses := rfl
@[simp] theorem respond_frames (st : Status) (warn : Bool) (data : Colour) (stream : List Byte) : (respond st warn data stream s).frames = s.frames := rfl

/-! ### respondOk -/

@[simp] theorem respondOk_init : (respondOk s).init = s.init := rfl
@[simp] theorem respondOk_bright : (respondOk s).bright = s.bright := rfl
@[simp] theorem respondOk_pixels : (respondOk s).pixels = s.pixels := rfl
@[simp] theorem respondOk_busy : (respondOk s).busy = false := rfl
@[simp] theorem respondOk_spiral : (respondOk s).spiral = s.spiral := rfl
@[simp] theorem respondOk_cmdIn : (respondOk s).cmdIn = s.cmdIn := rfl
@[simp] theorem respondOk_rstIn : (respondOk s).rstIn = s.rstIn := rfl
@[simp] theorem respondOk_busIn : (respondOk s).busIn = s.busIn := rfl
@[simp] theorem respondOk_inFlight : (respondOk s).inFlight = s.inFlight := rfl
@[simp] theorem respondOk_responses : (respondOk s).responses = ⟨.ok, false, 0, []⟩ :: s.responses := rfl
@[simp] theorem respondOk_frames : (respondOk s).frames = s.frames := rfl

/-! ### raise -/

@[simp] theorem raise_init (e : Status) : (raise e s).init = s.init := rfl
@[simp] theorem raise_bright (e : Status) : (raise e s).bright = s.bright := rfl
@[simp] theorem raise_pixels (e : Status) : (raise e s).pixels = s.pixels := rfl
@[simp] theorem raise_busy (e : Status) : (raise e s).busy = false := rfl
@[simp] theorem raise_spiral (e : Status) : (raise e s).spiral = s.spiral := rfl
@[simp] theorem raise_cmdIn (e : Status) : (raise e s).cmdIn = s.cmdIn := rfl
@[simp] theorem raise_rstIn (e : Status) : (raise e s).rstIn = s.rstIn := rfl
@[simp] theorem raise_busIn (e : Status) : (raise e s).busIn = s.busIn := rfl
@[simp] theorem raise_inFlight (e : Status) : (raise e s).inFlight = s.inFlight := rfl
@[simp] theorem raise_responses (e : Status) : (raise e s).responses = ⟨e, false, 0, []⟩ :: s.responses := rfl
@[simp] theorem raise_frames (e : Status) : (raise e s).frames = s.frames := rfl

/-! ### accept -/

@[simp] theorem accept_init : (accept s).init = s.init := rfl
@[simp] theorem accept_bright : (accept s).bright = s.bright := rfl
@[simp] theorem accept_pixels : (accept s).pixels = s.pixels := rfl
@[simp] theorem accept_busy : (accept s).busy = true := rfl
@[simp] theorem accept_spiral : (accept s).spiral = s.spiral := rfl
@[simp] theorem accept_cmdIn : (accept s).cmdIn = none := rfl
@[simp] theorem accept_rstIn : (accept s).rstIn = s.rstIn := rfl
@[simp] theorem accept_busIn : (accept s).busIn = s.busIn := rfl
@[simp] theorem accept_inFlight : (accept s).inFlight = s.inFlight := rfl
@[simp] theorem accept_responses : (accept s).responses = s.responses := rfl
@[simp] theorem accept_frames : (accept s).frames = s.frames := rfl

/-! ### construct -/

@[simp] theorem construct_init (b8 : Nat) : (construct b8 s).init = true := rfl
@[simp] theorem construct_bright (b8 : Nat) : (construct b8 s).bright = clampBrightness b8 := rfl
@[simp] theorem construct_pixels (b8 : Nat) : (construct b8 s).pixels = Vector.replicate 64 (enc 0 (clampBrightness b8)) := rfl
@[simp] theorem construct_busy (b8 : Nat) : (construct b8 s).busy = s.busy := rfl
@[simp] theorem construct_spiral (b8 : Nat) : (construct b8 s).spiral = s.spiral := rfl
@[simp] theorem construct_cmdIn (b8 : Nat) : (construct b8 s).cmdIn = s.cmdIn := rfl
@[simp] theorem construct_rstIn (b8 : Nat) : (construct b8 s).rstIn = s.rstIn := rfl
@[simp] theorem construct_busIn (b8 : Nat) : (construct b8 s).busIn = s.busIn := rfl
@[simp] theorem construct_inFlight (b8 : Nat) : (construct b8 s).inFlight = s.inFlight := rfl
@[simp] theorem construct_responses (b8 : Nat) : (construct b8 s).responses = s.responses := rfl
@[simp] theorem construct_frames (b8 : Nat) : (construct b8 s).frames = s.frames := rfl

/-! ### resetEvent -/

@[simp] theorem resetEvent_init : (resetEvent s).init = false := rfl
@[simp] theorem resetEvent_bright : (resetEvent s).bright = 0 := rfl
@[simp] theorem resetEvent_pixels : (resetEvent s).pixels = Vector.replicate 64 0 := rfl
@[simp] theorem resetEvent_busy : (resetEvent s).busy = false := rfl
@[simp] theorem resetEvent_spiral : (resetEvent s).spiral = s.spiral := rfl
@[simp] theorem resetEvent_cmdIn : (resetEvent s).cmdIn = s.cmdIn := rfl
@[simp] theorem resetEvent_rstIn : (resetEvent s).rstIn = false := rfl
@[simp] theorem resetEvent_busIn : (resetEvent s).busIn = s.busIn := rfl
@[simp] theorem resetEvent_inFlight : (resetEvent s).inFlight = s.inFlight := rfl
@[simp] theorem resetEvent_responses : (resetEvent s).responses = s.responses := rfl
@[simp] theorem resetEvent_frames : (resetEvent s).frames = s.frames := rfl

/-! ### writePixel -/

@[simp] theorem writePixel_init (k : Nat) (c : Colour) : (writePixel k c s).init = s.init := by unfold writePixel State.setFb; split <;> rfl
@[simp] theorem writePixel_bright (k : Nat) (c : Colour) : (writePixel k c s).bright = s.bright := by unfold writePixel State.setFb; split <;> rfl
@[simp] theorem writePixel_busy (k : Nat) (c : Colour) : (writePixel k c s).busy = s.busy := by unfold writePixel State.setFb; split <;> rfl
@[simp] theorem writePixel_spiral (k : Nat) (c : Colour) : (writePixel k c s).spiral = s.spiral := by unfold writePixel State.setFb; split <;> rfl
@[simp] theorem writePixel_cmdIn (k : Nat) (c : Colour) : (writePixel k c s).cmdIn = s.cmdIn := by unfold writePixel State.setFb; split <;> rfl
@[simp] theorem writePixel_rstIn (k : Nat) (c : Colour) : (writePixel k c s).rstIn = s.rstIn := by unfold writePixel State.setFb; split <;> rfl
@[simp] theorem writePixel_busIn (k : Nat) (c : Colour) : (writePixel k c s).busIn = s.busIn := by unfold writePixel State.setFb; split <;> rfl
@[simp] theorem writePixel_inFlight (k : Nat) (c : Colour) : (writePixel k c s).inFlight = s.inFlight := by unfold writePixel State.setFb; split <;> rfl
@[simp] theorem writePixel_responses (k : Nat) (c : Colour) : (writePixel k c s).responses = s.responses := by unfold writePixel State.setFb; split <;> rfl
@[simp] theorem writePixel_frames (k : Nat) (c : Colour) : (writePixel k c s).frames = s.frames := by unfold writePixel State.setFb; split <;> rfl

/-! ### paint -/

/-- A painting changes nothing but the pixel words. -/
theorem paint_eq (S : List Nat) (c : Colour) : paint S c s = { s with pixels := (paint S c s).pixels } := by
  induction S generalizing s with
  | nil => rfl
  | cons k S ih =>
    have h : paint (k :: S) c s = paint S c (writePixel k c s) := rfl
    rw [h, ih (writePixel k c s)]
    simp

@[simp] theorem paint_init (S : List Nat) (c : Colour) : (paint S c s).init = s.init := by rw [paint_eq]
@[simp] theorem paint_bright (S : List Nat) (c : Colour) : (paint S c s).bright = s.bright := by rw [paint_eq]
@[simp] theorem paint_busy (S : List Nat) (c : Colour) : (paint S c s).busy = s.busy := by rw [paint_eq]
@[simp] theorem paint_spiral (S : List Nat) (c : Colour) : (paint S c s).spiral = s.spiral := by rw [paint_eq]
@[simp] theorem paint_cmdIn (S : List Nat) (c : Colour) : (paint S c s).cmdIn = s.cmdIn := by rw [paint_eq]
@[simp] theorem paint_rstIn (S : List Nat) (c : Colour) : (paint S c s).rstIn = s.rstIn := by rw [paint_eq]
@[simp] theorem paint_busIn (S : List Nat) (c : Colour) : (paint S c s).busIn = s.busIn := by rw [paint_eq]
@[simp] theorem paint_inFlight (S : List Nat) (c : Colour) : (paint S c s).inFlight = s.inFlight := by rw [paint_eq]
@[simp] theorem paint_responses (S : List Nat) (c : Colour) : (paint S c s).responses = s.responses := by rw [paint_eq]
@[simp] theorem paint_frames (S : List Nat) (c : Colour) : (paint S c s).frames = s.frames := by rw [paint_eq]

/-! ### The words of the frame buffer under updates that leave the pixels alone -/

@[simp] theorem respond_fb (st : Status) (warn : Bool) (data : Colour) (stream : List Byte) (k : Nat) :
    (respond st warn data stream s).fb k = s.fb k := rfl
@[simp] theorem respondOk_fb (k : Nat) : (respondOk s).fb k = s.fb k := rfl
@[simp] theorem raise_fb (e : Status) (k : Nat) : (raise e s).fb k = s.fb k := rfl
@[simp] theorem accept_fb (k : Nat) : (accept s).fb k = s.fb k := rfl
@[simp] theorem respond_ser (st : Status) (warn : Bool) (data : Colour) (stream : List Byte) :
    (respond st warn data stream s).ser = s.ser := rfl
@[simp] theorem respondOk_ser : (respondOk s).ser = s.ser := rfl
@[simp] theorem raise_ser (e : Status) : (raise e s).ser = s.ser := rfl
@[simp] theorem accept_ser : (accept s).ser = s.ser := rfl

/-- FB is a function of the pixel words alone. -/
theorem fb_congr {s t : State} (h : s.pixels = t.pixels) (k : Nat) : s.fb k = t.fb k := by
  unfold State.fb; rw [h]

/-- SER() is a function of the pixel words alone. -/
theorem ser_congr {s t : State} (h : s.pixels = t.pixels) : s.ser = t.ser := by
  unfold State.ser; simp only [fb_congr h]

/-- LIN is a function of the spiral table alone. -/
theorem lin_congr {s t : State} (h : s.spiral = t.spiral) (p : Nat) : s.lin p = t.lin p := by
  unfold State.lin; rw [h]

@[simp] theorem accept_lin (p : Nat) : (accept s).lin p = s.lin p := rfl

end Sys2Proof.Machine
end

