-- ==== Sys2Proof/Laws/Ops.lean ====
section
/-! SUPPORT. One lemma per shared operation that says all it does: the encoder, the frame buffer's accessors, painting,
the serializer, transmitting, and the error priority. -/

namespace Sys2Proof.Machine

/-! ### The encoder (R69, R71, R72, R73) -/

/-- A pixel word bit by bit: brightness, marker, colour from the least significant bit up (R69). -/
theorem getLsbD_enc (c : Colour) (b : Brightness) (j : Nat) :
    (enc c b).getLsbD j =
      if j < 5 then b.getLsbD j else if j < 8 then (0b111#3).getLsbD (j - 5) else c.getLsbD (j - 8) := by
  have h1 : (enc c b).getLsbD j = if j < 5 then b.getLsbD j else (c ++ 0b111#3).getLsbD (j - 5) := BitVec.getLsbD_append
  have h2 : (c ++ 0b111#3).getLsbD (j - 5) =
      if j - 5 < 3 then (0b111#3).getLsbD (j - 5) else c.getLsbD (j - 5 - 3) := BitVec.getLsbD_append
  rw [h1, h2]
  by_cases c1 : j < 5
  · simp only [c1, if_true]
  by_cases c2 : j < 8
  · simp only [c1, c2, if_false, if_true, show j - 5 < 3 by omega]
  · simp only [c1, c2, if_false, show ¬ j - 5 < 3 by omega, show j - 5 - 3 = j - 8 by omega]

@[simp] theorem colorOf_enc (c : Colour) (b : Brightness) : colorOf (enc c b) = c := by
  unfold colorOf
  ext i hi
  simp [getLsbD_enc, hi, show ¬ 8 + i < 5 by omega]

@[simp] theorem marker_enc (c : Colour) (b : Brightness) : (enc c b).extractLsb' 5 3 = 0b111#3 := by
  ext i hi
  simp only [BitVec.getElem_extractLsb', getLsbD_enc, if_neg (show ¬ 5 + i < 5 by omega), if_pos (show 5 + i < 8 by omega)]
  rw [show 5 + i - 5 = i by omega, BitVec.getLsbD_eq_getElem hi]

@[simp] theorem brightness_enc (c : Colour) (b : Brightness) : (enc c b).extractLsb' 0 5 = b := by
  ext i hi
  simp [getLsbD_enc, hi]

/-- The low byte of a pixel word, BBYTE (R74). -/
@[simp] theorem lowByte_enc (c : Colour) (b : Brightness) : (enc c b).extractLsb' 0 8 = (0b111#3 ++ b : Byte) := by
  ext i hi
  have h : (0b111#3 ++ b : Byte).getLsbD i = if i < 5 then b.getLsbD i else (0b111#3).getLsbD (i - 5) :=
    BitVec.getLsbD_append
  rw [← BitVec.getLsbD_eq_getElem, ← BitVec.getLsbD_eq_getElem, h]
  simp [getLsbD_enc, hi]

/-- A word is its colour, its marker and its brightness. -/
theorem word_eq_enc (w : Word) (b : Brightness) (hm : w.extractLsb' 5 3 = 0b111#3) (hb : w.extractLsb' 0 5 = b) :
    w = enc (colorOf w) b := by
  apply BitVec.eq_of_getLsbD_eq
  intro j hj
  rw [getLsbD_enc]
  by_cases c1 : j < 5
  · rw [if_pos c1, ← hb]; simp [c1]
  by_cases c2 : j < 8
  · rw [if_neg c1, if_pos c2, ← hm]; simp [show j - 5 < 3 by omega, show 5 + (j - 5) = j by omega]
  · rw [if_neg c1, if_neg c2]; unfold colorOf; simp [show j - 8 < 24 by omega, show 8 + (j - 8) = j by omega]

@[simp] theorem length_bytesOf (w : Word) : (bytesOf w).length = 4 := rfl

/-! ### The frame buffer's accessors (R22, R23, R24) -/

@[simp] theorem fb_zero (s : State) : s.fb 0 = 0x00000000#32 := rfl

@[simp] theorem fb_end (s : State) : s.fb 65 = 0xFFFFFFFF#32 := rfl

theorem pixOk_iff {k : Nat} : pixOk k = true ↔ 1 ≤ k ∧ k ≤ 64 := by simp [pixOk]

theorem spiOk_iff {p : Nat} : spiOk p = true ↔ p < 64 := by simp [spiOk]

/-- A pixel word is read where it is stored. -/
theorem fb_pixel (s : State) {k : Nat} (h1 : 1 ≤ k) (h2 : k ≤ 64) : s.fb k = s.pixels[k - 1] := by
  simp [State.fb, show k ≠ 0 by omega, show k ≠ 65 by omega, show k - 1 < 64 by omega]

/-- Reading any word after writing one: the word written, if it is a pixel word, and otherwise what it was. -/
theorem fb_setFb (s : State) (k j : Nat) (v : Word) :
    (s.setFb k v).fb j = if j = k ∧ pixOk k = true then v else s.fb j := by
  unfold State.setFb
  by_cases hk : pixOk k = true
  · have := pixOk_iff.1 hk
    simp only [hk, if_true, and_true]
    by_cases hj : j = k
    · subst hj
      simp [State.fb, show j ≠ 0 by omega, show j ≠ 65 by omega, show j - 1 < 64 by omega]
    · simp only [hj, if_false]
      unfold State.fb
      split
      · rfl
      split
      · rfl
      · simp [show k - 1 ≠ j - 1 by omega]
  · simp [hk]

/-- Pixel words and frame words say the same of a state. -/
theorem pixels_ext {s t : State} (h : ∀ k, 1 ≤ k → k ≤ 64 → s.fb k = t.fb k) : s.pixels = t.pixels := by
  refine Vector.ext fun i hi => ?_
  have := h (i + 1) (by omega) (by omega)
  rwa [fb_pixel s (by omega) (by omega), fb_pixel t (by omega) (by omega)] at this

theorem fb_writePixel (s : State) (k j : Nat) (c : Colour) :
    (writePixel k c s).fb j = if j = k ∧ pixOk k = true then enc c s.bright else s.fb j := fb_setFb s k j _

/-- Painting says it all: the words of the set that are pixel words hold ENC(c, BRIGHT), every other word is unchanged
(R99, R107). -/
theorem fb_paint (S : List Nat) (c : Colour) (s : State) (j : Nat) :
    (paint S c s).fb j = if j ∈ S ∧ pixOk j = true then enc c s.bright else s.fb j := by
  induction S generalizing s with
  | nil => simp [paint]
  | cons k S ih =>
    have h : paint (k :: S) c s = paint S c (writePixel k c s) := rfl
    rw [h, ih, writePixel_bright, fb_writePixel]
    by_cases hj : j ∈ S ∧ pixOk j = true
    · simp [hj]
    · by_cases hk : j = k
      · subst hk; by_cases hp : pixOk j = true <;> simp_all
      · simp_all

/-- After INIT's writes every pixel word is colour 0 at the clamped brightness (R77). -/
theorem fb_construct (b8 : Nat) (s : State) {k : Nat} (h1 : 1 ≤ k) (h2 : k ≤ 64) :
    (construct b8 s).fb k = enc 0 (clampBrightness b8) := by
  rw [fb_pixel _ h1 h2]; simp

/-! ### The serializer (R84) -/

/-- Byte m of piece k of a list laid out in pieces of four. -/
theorem getElem?_flatMap_four {α : Type} (f : Nat → List α) (hf : ∀ k, (f k).length = 4) (n k m : Nat) (hk : k < n)
    (hm : m < 4) : ((List.range n).flatMap f)[4 * k + m]? = (f k)[m]? := by
  induction n with
  | zero => omega
  | succ n ih =>
    have hl : ((List.range n).flatMap f).length = 4 * n := by
      simp [List.length_flatMap, hf, Nat.mul_comm]
    rw [List.range_succ, List.flatMap_append]
    by_cases h : k < n
    · rw [List.getElem?_append_left (by omega), ih h]
    · have : k = n := by omega
      subst this
      rw [List.getElem?_append_right (by omega), hl]
      simp

@[simp] theorem length_ser (s : State) : s.ser.length = 264 := by
  simp [State.ser, List.length_flatMap, Config.numLeds]

/-- "Byte m (m in 0..3) of word k … at offset 4k+m" (R44). -/
theorem getElem?_ser (s : State) {k m : Nat} (hk : k < 66) (hm : m < 4) : s.ser[4 * k + m]? = (bytesOf (s.fb k))[m]? :=
  getElem?_flatMap_four _ (fun _ => rfl) 66 k m hk hm

/-! ### Transmitting (R85, R86) -/

/-- What waiting for the sink can do: take OK, take IOERR, or go on waiting. -/
theorem awaitAnswer_cases (s : State) :
    (∃ bytes rest, s.inFlight = some bytes ∧ s.busIn = .ok :: rest ∧
      awaitAnswer s = { s with busy := false, inFlight := none, busIn := rest, frames := ⟨bytes, .ok⟩ :: s.frames,
                               responses := ⟨.ok, false, 0, []⟩ :: s.responses }) ∨
    (∃ bytes rest, s.inFlight = some bytes ∧ s.busIn = .ioErr :: rest ∧
      awaitAnswer s = { s with busy := false, inFlight := none, busIn := rest, frames := ⟨bytes, .ioErr⟩ :: s.frames,
                               responses := ⟨.ioError, false, 0, []⟩ :: s.responses }) ∨
    ((s.inFlight = none ∨ s.busIn = []) ∧ awaitAnswer s = s) := by
  rcases hf : s.inFlight with _ | bytes
  · exact .inr (.inr ⟨.inl rfl, by simp [awaitAnswer, hf]⟩)
  rcases hb : s.busIn with _ | ⟨a, rest⟩
  · exact .inr (.inr ⟨.inr rfl, by simp [awaitAnswer, hf, hb]⟩)
  cases a
  · exact .inl ⟨bytes, rest, rfl, rfl, by simp [awaitAnswer, hf, hb, respondOk, respond]⟩
  · exact .inr (.inl ⟨bytes, rest, rfl, rfl, by simp [awaitAnswer, hf, hb, raise, respond]⟩)

/-- The response to a transmission the sink has answered (R86). -/
def answerStatus : BusAnswer → Status
  | .ok => .ok
  | .ioErr => .ioError

/-- TRANSMIT with an answer there: one frame, SER as it stands, and one response. -/
theorem transmit_answered (s : State) (a : BusAnswer) (rest : List BusAnswer) (h : s.busIn = a :: rest) :
    transmit s = { s with busy := false, inFlight := none, busIn := rest, frames := ⟨s.ser, a⟩ :: s.frames,
                          responses := ⟨answerStatus a, false, 0, []⟩ :: s.responses } := by
  cases a <;> simp [transmit, awaitAnswer, h, respondOk, raise, respond, answerStatus]

/-- TRANSMIT with no answer there: the frame is in flight and the block waits (R125). -/
theorem transmit_waiting (s : State) (h : s.busIn = []) :
    transmit s = { s with busy := true, inFlight := some s.ser } := by simp [transmit, awaitAnswer, h]

/-- A transmission changes neither flag, brightness, pixels nor table. -/
theorem transmit_frame (s : State) :
    (transmit s).init = s.init ∧ (transmit s).bright = s.bright ∧ (transmit s).pixels = s.pixels ∧
      (transmit s).spiral = s.spiral ∧ (transmit s).cmdIn = s.cmdIn ∧ (transmit s).rstIn = s.rstIn := by
  rcases h : s.busIn with _ | ⟨a, rest⟩
  · simp [transmit_waiting s h]
  · simp [transmit_answered s a rest h]

/-! ### The check of INIT (R66, R111) -/

theorem whenInit_of_init {s : State} (h : s.init = true) (body : State → State) : whenInit body s = body s := by
  simp [whenInit, h]

theorem whenInit_of_not_init {s : State} (h : s.init = false) (body : State → State) :
    whenInit body s = raise .notInitialized s := by simp [whenInit, h]

/-! ### The side operand (R62) -/

theorem sideOf_eq_none_iff {sd : Nat} : sideOf sd = none ↔ 4 ≤ sd := by
  match sd with
  | 0 | 1 | 2 | 3 => simp [sideOf]
  | n + 4 => simp [sideOf]

end Sys2Proof.Machine
end

