-- ==== Sys2Proof/Laws/Geometry.lean ====
section
/-! SUPPORT. Which indices the loops of the pattern indexer visit. -/

namespace Sys2Proof.Machine

/-! ### Loops (R16) -/

/-- A stride of 1 counts from a to b - 1. -/
theorem mem_strideRange_one {a b x : Nat} : x ∈ strideRange a b 1 ↔ a ≤ x ∧ x < b := by
  simp only [strideRange, List.mem_map, List.mem_range]
  constructor
  · rintro ⟨n, hn, rfl⟩; simp at hn; omega
  · rintro ⟨h1, h2⟩; exact ⟨x - a, by simp; omega, by omega⟩

/-- The range(i, 57+i, 8) of R96 and R98: "i, i+8, ..., i+56, which is eight values". -/
theorem mem_strideRange_eight {i x : Nat} : x ∈ strideRange i (57 + i) 8 ↔ ∃ n, n < 8 ∧ x = i + 8 * n := by
  simp only [strideRange, List.mem_map, List.mem_range, show 57 + i - i + (8 - 1) = 64 by omega]
  constructor
  · rintro ⟨n, hn, rfl⟩; exact ⟨n, hn, by omega⟩
  · rintro ⟨n, hn, rfl⟩; exact ⟨n, hn, by omega⟩

theorem mem_blockSet {off count k : Nat} : k ∈ blockSet off count ↔ off ≤ k ∧ k < off + count := by
  simp only [blockSet, List.mem_map, mem_strideRange_one]
  constructor
  · rintro ⟨j, hj, rfl⟩; omega
  · rintro ⟨h1, h2⟩; exact ⟨k - off, by omega, by omega⟩

theorem mem_stridedSet {groups off k : Nat} :
    k ∈ stridedSet groups off ↔ ∃ i n, i < groups ∧ n < 8 ∧ k = i + 8 * n + off := by
  simp only [stridedSet, List.mem_flatMap, List.mem_map, mem_strideRange_one, mem_strideRange_eight]
  constructor
  · rintro ⟨i, hi, j, ⟨n, hn, rfl⟩, rfl⟩; exact ⟨i, n, by omega, hn, rfl⟩
  · rintro ⟨i, n, hi, hn, rfl⟩; exact ⟨i, by omega, _, ⟨n, hn, rfl⟩, rfl⟩

theorem mem_allSet {k : Nat} : k ∈ allSet ↔ pixOk k = true := by
  rw [allSet, mem_blockSet, pixOk_iff]
  simp only [Config.numLeds]
  omega

end Sys2Proof.Machine
end

