-- ==== Sys2Proof/Laws/PerInstr.lean ====
section
/-! SUPPORT. For every constructor of Instr: its encoding is a word of its row of opcode_table.json. -/

namespace Sys2Proof.Laws.TableRow

/-- The row's "match", as opcode_table.json has it; every row's "mask" is 0xFF00000000. -/
def rowMatch : Instr → Command
  | .init _ => 0x1000000000#40
  | .setPixel _ _ => 0x2000000000#40
  | .getPixel _ => 0x3000000000#40
  | .setPixelSpiral _ _ => 0x4000000000#40
  | .getPixelSpiral _ => 0x5000000000#40
  | .serialize => 0x6000000000#40
  | .render => 0x7000000000#40
  | .fill _ => 0x8000000000#40
  | .clear => 0x9000000000#40
  | .filledCircle _ _ => 0xA000000000#40
  | .ring _ _ => 0xB000000000#40
  | .fillHalf _ _ => 0xC000000000#40
  | .fillQuarter24 _ _ => 0xD000000000#40

/-- A well-formed instruction's word is selected by its row's mask and match (R61). -/
def Statement (i : Instr) : Prop := i.wellFormed = true → encode i &&& 0xFF00000000#40 = rowMatch i

theorem init (b8 : Nat) : Statement (.init b8) := fun _ => (cmd40_and_mask _ _ _).trans rfl
theorem setPixel (i : Nat) (c : Colour) : Statement (.setPixel i c) := fun _ => (cmd40_and_mask _ _ _).trans rfl
theorem getPixel (i : Nat) : Statement (.getPixel i) := fun _ => (cmd40_and_mask _ _ _).trans rfl
theorem setPixelSpiral (p : Nat) (c : Colour) : Statement (.setPixelSpiral p c) :=
  fun _ => (cmd40_and_mask _ _ _).trans rfl
theorem getPixelSpiral (p : Nat) : Statement (.getPixelSpiral p) := fun _ => (cmd40_and_mask _ _ _).trans rfl
theorem serialize : Statement .serialize := fun _ => (cmd40_and_mask _ _ _).trans rfl
theorem render : Statement .render := fun _ => (cmd40_and_mask _ _ _).trans rfl
theorem fill (c : Colour) : Statement (.fill c) := fun _ => (cmd40_and_mask _ _ _).trans rfl
theorem clear : Statement .clear := fun _ => (cmd40_and_mask _ _ _).trans rfl
theorem filledCircle (r : Nat) (c : Colour) : Statement (.filledCircle r c) :=
  fun _ => (cmd40_and_mask _ _ _).trans rfl
theorem ring (r : Nat) (c : Colour) : Statement (.ring r c) := fun _ => (cmd40_and_mask _ _ _).trans rfl
theorem fillHalf (sd : Nat) (c : Colour) : Statement (.fillHalf sd c) := fun _ => (cmd40_and_mask _ _ _).trans rfl
theorem fillQuarter24 (sd : Nat) (c : Colour) : Statement (.fillQuarter24 sd c) :=
  fun _ => (cmd40_and_mask _ _ _).trans rfl

end Sys2Proof.Laws.TableRow
end

