-- ==== Sys2Proof/Laws/Step.lean ====
section
/-! SUPPORT. What one command and one step can do, said once. -/

namespace Sys2Proof.Machine

/-- RENDER is a pattern command that writes nothing. -/
theorem transmit_eq_patternApply_nil (s : State) : transmit s = patternApply [] 0 s := rfl

/-- The six effects a command can have on a state: an error, a construction, one pixel write, one colour read, the frame
to the host, or a painting that is transmitted. All but the first two need INIT = 1, and only
RENDER and the pattern commands transmit. -/
inductive Effect (i : Instr) (s : State) : State → Prop where
  | error (e : Status) (h1 : e ≠ .ok) (h2 : e ≠ .invalidBrightness) (h3 : e ≠ .ioError) : Effect i s (raise e s)
  | construction (b8 : Nat) (h : i = .init b8) : Effect i s (respond .ok (warnOf b8) 0 [] (construct b8 s))
  | write (h : s.init = true) (k : Nat) (c : Colour) : Effect i s (respondOk (writePixel k c s))
  | read (h : s.init = true) (hi : ∃ k, i = .getPixel k ∨ i = .getPixelSpiral k) (d : Colour) : Effect i s (respond .ok false d [] s)
  | stream (h : s.init = true) (hi : i = .serialize) : Effect i s (respond .ok false 0 s.ser s)
  | pattern (h : s.init = true) (hi : transmitter i = true) (S : List Nat) (c : Colour) : Effect i s (patternApply S c s)

/-- A body behind the check of INIT has an effect if it has one with INIT = 1. -/
theorem Effect.whenInit {i : Instr} {s : State} {body : State → State} (h : s.init = true → Effect i s (body s)) :
    Effect i s (whenInit body s) := by
  rcases hi : s.init with _ | _
  · rw [whenInit_of_not_init hi]; exact .error _ (by decide) (by decide) (by decide)
  · rw [whenInit_of_init hi]; exact h hi

/-- Every command answers a next state, by one of the six effects. -/
theorem exec_cases (i : Instr) (s : State) : ∃ t, exec i s = .next t ∧ Effect i s t := by
  cases i with
  | init b8 => exact ⟨_, rfl, .construction b8 rfl⟩
  | setPixel k c =>
    refine ⟨_, rfl, .whenInit fun h => ?_⟩
    split
    · exact .write h k c
    · exact .error _ (by decide) (by decide) (by decide)
  | getPixel k =>
    refine ⟨_, rfl, .whenInit fun h => ?_⟩
    split
    · exact .read h ⟨k, .inl rfl⟩ _
    · exact .error _ (by decide) (by decide) (by decide)
  | setPixelSpiral p c =>
    refine ⟨_, rfl, .whenInit fun h => ?_⟩
    split
    · exact .write h (s.lin p) c
    · exact .error _ (by decide) (by decide) (by decide)
  | getPixelSpiral p =>
    refine ⟨_, rfl, .whenInit fun h => ?_⟩
    split
    · exact .read h ⟨p, .inr rfl⟩ _
    · exact .error _ (by decide) (by decide) (by decide)
  | serialize => exact ⟨_, rfl, .whenInit fun h => .stream h rfl⟩
  | render => exact ⟨_, rfl, .whenInit fun h => .pattern h rfl [] 0⟩
  | fill c => exact ⟨_, rfl, .whenInit fun h => .pattern h rfl _ _⟩
  | clear => exact ⟨_, rfl, .whenInit fun h => .pattern h rfl _ _⟩
  | filledCircle r c =>
    refine ⟨_, rfl, .whenInit fun h => ?_⟩
    split
    · exact .pattern h rfl _ _
    · exact .error _ (by decide) (by decide) (by decide)
  | ring r c =>
    refine ⟨_, rfl, .whenInit fun h => ?_⟩
    split
    · exact .pattern h rfl _ _
    · exact .error _ (by decide) (by decide) (by decide)
  | fillHalf sd c =>
    refine ⟨_, rfl, .whenInit fun h => ?_⟩
    split
    · exact .pattern h rfl _ _
    · exact .error _ (by decide) (by decide) (by decide)
  | fillQuarter24 sd c =>
    refine ⟨_, rfl, .whenInit fun h => ?_⟩
    split
    · exact .pattern h rfl _ _
    · exact .error _ (by decide) (by decide) (by decide)

/-- With INIT = 1 a command behind the check of INIT is its body. -/
theorem next_whenInit {s t : State} {body : State → State} (h : s.init = true) (e : body s = t) :
    (Host.Outcome.next (whenInit body s) : Host.Outcome State Fault Refusal) = .next t := by
  rw [whenInit_of_init h, e]

/-- The writes of a command change pixel words only. -/
theorem paintedBy_eq (i : Instr) (s : State) : paintedBy i s = { s with pixels := (paintedBy i s).pixels } := by
  cases i with
  | init | setPixel | getPixel | setPixelSpiral | getPixelSpiral | serialize | render => rfl
  | fill | clear | filledCircle | ring => exact paint_eq _ _ _
  | fillHalf sd | fillQuarter24 sd =>
    rcases h : sideOf sd with _ | side
    · simp [paintedBy, h]
    · simpa [paintedBy, h] using paint_eq s _ _

/-- A command that uses the bus, with a valid operand and INIT = 1, makes its writes and transmits (R88, R99). -/
theorem exec_transmitter {i : Instr} {s : State} (ht : transmitter i = true) (ho : operandValid i)
    (hi : s.init = true) : exec i s = .next (transmit (paintedBy i s)) := by
  cases i with
  | init | setPixel | getPixel | setPixelSpiral | getPixelSpiral | serialize => cases ht
  | render | fill | clear => exact next_whenInit hi rfl
  | filledCircle r | ring r => exact next_whenInit hi (if_pos (by simpa [radiusOk, operandValid] using ho))
  | fillHalf sd | fillQuarter24 sd =>
    rcases h : sideOf sd with _ | side
    · have := sideOf_eq_none_iff.1 h
      exact absurd ho (by unfold operandValid; omega)
    · exact next_whenInit hi (by simp [h, paintedBy, patternApply])

/-- What a step to a next state can be: reset, waiting for the sink, idling, an illegal word, or one command. -/
theorem step_cases {s t : State} (h : step s = .next t) :
    (s.rstIn = true ∧ s.busy = false ∧ t = resetEvent s) ∨
    (s.rstIn = false ∧ s.busy = true ∧ t = awaitAnswer s) ∨
    (s.rstIn = false ∧ s.busy = false ∧ s.cmdIn = none ∧ t = s) ∨
    (s.rstIn = false ∧ s.busy = false ∧ ∃ w e, s.cmdIn = some w ∧ decode w = .error e ∧
      t = raise .illegalCommand (accept s)) ∨
    (s.rstIn = false ∧ s.busy = false ∧ ∃ w i, s.cmdIn = some w ∧ decode w = .ok i ∧ exec i (accept s) = .next t) := by
  unfold step at h
  rcases hr : s.rstIn with _ | _ <;> rcases hb : s.busy with _ | _ <;> simp only [hr, hb, if_true, if_false,
    Bool.false_eq_true, reduceCtorEq, Host.Outcome.next.injEq] at h
  · rcases hc : s.cmdIn with _ | w
    · simp only [hc, Host.Outcome.next.injEq] at h
      exact .inr (.inr (.inl ⟨rfl, rfl, rfl, h.symm⟩))
    · simp only [hc] at h
      rcases hd : decode w with e | i
      · simp only [hd, Host.Outcome.next.injEq] at h
        exact .inr (.inr (.inr (.inl ⟨rfl, rfl, w, e, rfl, hd, h.symm⟩)))
      · simp only [hd] at h
        exact .inr (.inr (.inr (.inr ⟨rfl, rfl, w, i, rfl, hd, h⟩)))
  · exact .inr (.inl ⟨rfl, rfl, h.symm⟩)
  · exact .inl ⟨rfl, rfl, h.symm⟩

/-- A command sent to an idle block is taken, decoded and run. -/
theorem sendCommand_of_idle (w : Command) {s : State} (h : s.idle) :
    sendCommand w s =
      match decode w with
      | .error _ => .next (raise .illegalCommand { s with cmdIn := none, busy := true })
      | .ok i => exec i { s with cmdIn := none, busy := true } := by
  obtain ⟨hb, hr⟩ := h
  unfold sendCommand step
  simp only [hb, hr, Bool.false_eq_true, if_false]
  rfl

end Sys2Proof.Machine
end

