-- ==== Sys2Proof/Tests/Slice0.lean ====
section
/-! SUPPORT. Tests of single commands and steps, with expected results from spec/95_test_vectors.md and the examples of
the rules, and for each statement with hypotheses a concrete state and operands that meet them. -/

-- Many small kernel evaluations: one after another, not a thread each.
set_option Elab.async false

namespace Sys2Proof.Tests

open Sys2Proof.Machine

/-! ### The states of the tests -/

/-- The test table of 95_test_vectors.md: SPIRAL_T[s] = 64 - s. It is a test instance, not the hardware's table. -/
def spiralT : Vector SpiralEntry 64 := Vector.ofFn fun s => BitVec.ofNat 7 (64 - s.val)

/-- The state after reset with the test table. -/
def start : State := { State.reset with spiral := spiralT }

/-- The state after INIT `b`. -/
def lit (b : Nat) : State := construct b start

/-- With the sink's answers ready. -/
def withAnswers (as : List BusAnswer) (s : State) : State := { s with busIn := as }

/-- With a word offered on the command port. -/
def offered (w : Command) (s : State) : State := { s with cmdIn := some w }

/-- The answer is a next state of which `p` holds. -/
def holds (o : Host.Outcome State Fault Refusal) (p : State → Bool) : Bool :=
  match o with
  | .next t => p t
  | .fault _ => false
  | .refused _ => false

/-- FB[k] = w for every k of the list and v for every other pixel. -/
def painted (S : List Nat) (w v : Word) (s : State) : Bool :=
  (List.range' 1 64).all fun k => decide (s.fb k = if k ∈ S then w else v)

/-- The bytes of one word. -/
def quad (a b c d : Byte) : List Byte := [a, b, c, d]

/-- `n` copies of a word's bytes. -/
def quads (n : Nat) (q : List Byte) : List Byte := (List.replicate n q).flatten

/-! ### Well-formedness, decoding, the assembler -/

/-- Each check of WellFormed refuses an operand wider than its field (R68). -/
theorem test_wellFormed_refuses :
    (Instr.init 256).wellFormed = false ∧ (Instr.setPixel 256 0).wellFormed = false ∧
    (Instr.getPixel 300).wellFormed = false ∧ (Instr.setPixelSpiral 256 0).wellFormed = false ∧
    (Instr.getPixelSpiral 1000).wellFormed = false ∧ (Instr.filledCircle 256 0).wellFormed = false ∧
    (Instr.ring 256 0).wellFormed = false ∧ (Instr.fillHalf 256 0).wellFormed = false ∧
    (Instr.fillQuarter24 256 0).wellFormed = false ∧ (Instr.fillQuarter24 255 0).wellFormed = true := by decide

/-- Words of part 2.3 of the vectors, field by field (R57). -/
theorem test_decode_frameBuffer :
    decode 0b0001_0000_11001000_000000000000000000000000#40 = .ok (.init 200) ∧
    decode 0b0010_0000_00000001_111111110000000000000000#40 = .ok (.setPixel 1 0xFF0000) ∧
    decode 0b0011_0000_01000001_000000000000000000000000#40 = .ok (.getPixel 65) ∧
    decode 0b0100_0000_00111111_101010111100110111101111#40 = .ok (.setPixelSpiral 63 0xABCDEF) ∧
    decode 0b0101_0000_01000000_000000000000000000000000#40 = .ok (.getPixelSpiral 64) := by decide +kernel

/-- V-DEC-11 and part 2.4: the fields SERIALIZE and RENDER ignore (R64). -/
theorem test_decode_serializer :
    decode 0b0110_0000_10101011_000100100011010001010110#40 = .ok .serialize ∧
    decode 0b0111_0000_00000000_000000000000000000000000#40 = .ok .render := by decide +kernel

/-- Words of part 2.5 of the vectors; CLEAR ignores COLOR (V-PAT-2), FILL ignores ARG (R64). -/
theorem test_decode_pattern :
    decode 0b1000_0000_00000111_000100000010000000110000#40 = .ok (.fill 0x102030) ∧
    decode 0b1001_0000_00000000_111111111111111111111111#40 = .ok .clear ∧
    decode 0b1010_0000_00000100_000000000000000011111111#40 = .ok (.filledCircle 4 0x0000FF) ∧
    decode 0b1011_0000_11111111_000000001111111100000000#40 = .ok (.ring 255 0x00FF00) ∧
    decode 0b1100_0000_00000010_000000001111111100000000#40 = .ok (.fillHalf 2 0x00FF00) ∧
    decode 0b1101_0000_00001001_000000001111111100000000#40 = .ok (.fillQuarter24 9 0x00FF00) := by decide +kernel

/-- V-DEC-1 to V-DEC-5 and V-DEC-8. -/
theorem test_decode_illegal :
    decode 0x0000000000#40 = .error (.reservedOpcode 0x0) ∧ decode 0xE000000000#40 = .error (.reservedOpcode 0xE) ∧
    decode 0xF0FFFFFFFF#40 = .error (.reservedOpcode 0xF) ∧ decode 0x3101000000#40 = .error (.reservedField 1) ∧
    decode 0x1801000000#40 = .error (.reservedField 8) ∧ decode 0x5140000000#40 = .error (.reservedField 1) := by
  decide +kernel

/-- Encodings of programs P1 to P4. -/
theorem test_encode :
    encode (.init 200) = 0x10C8000000#40 ∧ encode (.setPixel 65 0x123456) = 0x2041123456#40 ∧
    encode (.getPixel 60) = 0x303C000000#40 ∧ encode (.getPixelSpiral 3) = 0x5003000000#40 ∧
    encode .clear = 0x9000000000#40 ∧ encode (.ring 4 0xFFFFFF) = 0xB004FFFFFF#40 ∧
    encode (.fillQuarter24 3 0xFF00FF) = 0xD003FF00FF#40 := by decide +kernel

/-- The examples of R68, and `.word40` of program P5. -/
theorem test_assemble :
    assembleLine "SET_PIXEL 1, 0xFF0000".toList = some 0x2001FF0000#40 ∧
    assembleLine "FILL_HALF TOP, 0x00FF00".toList = some 0xC00200FF00#40 ∧
    assembleLine "INIT      200".toList = some 0x10C8000000#40 ∧
    assembleLine "SERIALIZE".toList = some 0x6000000000#40 ∧
    assembleLine ".word40 0xF000000000".toList = some 0xF000000000#40 := by decide +kernel

/-- Assembly errors (R68): an operand too wide, a missing operand, an unknown name. -/
theorem test_assemble_refuses :
    assembleLine "INIT 256".toList = none ∧ assembleLine "FILL 0x1000000".toList = none ∧
    assembleLine "SET_PIXEL 1".toList = none ∧ assembleLine "FILL_HALF LEFTY, 0".toList = none ∧
    assembleLine "NOP".toList = none := by decide +kernel

/-! ### The encoder and the tables -/

/-- V-ENC-1, 3, 4, 6, 7 and V-ENC-15. -/
theorem test_enc :
    enc 0x000000 0 = 0x000000E0#32 ∧ enc 0xFF0000 5 = 0xFF0000E5#32 ∧ enc 0x00FF00 31 = 0x00FF00FF#32 ∧
    enc 0x123456 17 = 0x123456F1#32 ∧ enc 0xFFFFFF 31 = 0xFFFFFFFF#32 ∧
    bytesOf 0xFF0000E5#32 = [0xE5, 0x00, 0x00, 0xFF] := by decide

/-- V-ENC-8 and V-ENC-10 to V-ENC-14. -/
theorem test_clamp :
    colorOf 0x123456F1#32 = 0x123456 ∧ clampBrightness 0 = 0 ∧ clampBrightness 31 = 31 ∧ clampBrightness 32 = 31 ∧
    clampBrightness 200 = 31 ∧ clampBrightness 255 = 31 ∧ warnOf 31 = false ∧ warnOf 32 = true := by decide

/-- The lists of R96 and R98 in loop order. -/
theorem test_strided_sets :
    halfSet .bottom = [5, 13, 21, 29, 37, 45, 53, 61, 6, 14, 22, 30, 38, 46, 54, 62,
                       7, 15, 23, 31, 39, 47, 55, 63, 8, 16, 24, 32, 40, 48, 56, 64] ∧
    quarterSet .top = [1, 9, 17, 25, 33, 41, 49, 57, 2, 10, 18, 26, 34, 42, 50, 58, 3, 11, 19, 27, 35, 43, 51, 59] ∧
    quarterSet .right = List.range' 41 24 := by decide +kernel

/-- The codes of R109. -/
theorem test_status_codes :
    [Status.ok, .invalidBrightness, .indexOutOfRange, .invalidRadius, .invalidSide, .ioError, .illegalCommand,
      .notInitialized].map statusCode = [0, 1, 2, 3, 4, 5, 6, 7] := by decide

/-! ### One command -/

/-- V-FB-2. -/
theorem test_init : holds (exec (.init 200) (lit 5)) (fun t =>
    t.init && decide (t.bright = 31) && painted [] 0 0x000000FF t && decide (t.responses = [⟨.ok, true, 0, []⟩])) := by
  decide +kernel

/-- V-FB-3. -/
theorem test_setPixel : holds (exec (.setPixel 1 0xFF0000) (lit 5)) (fun t =>
    painted [1] 0xFF0000E5 0x000000E5 t && decide (t.responses = [⟨.ok, false, 0, []⟩] ∧ t.frames = [])) := by
  decide +kernel

/-- V-FB-5. -/
theorem test_setPixel_end : holds (exec (.setPixel 65 0x123456) (lit 5)) (fun t =>
    painted [] 0 0x000000E5 t && decide (t.fb 65 = 0xFFFFFFFF ∧ t.responses = [⟨.indexOutOfRange, false, 0, []⟩])) := by
  decide +kernel

/-- V-FB-4. -/
theorem test_getPixel : holds (exec (.getPixel 64) ((lit 5).setFb 64 0x123456E5)) (fun t =>
    decide (t.responses = [⟨.ok, false, 0x123456, []⟩])) := by decide +kernel

/-- V-FB-9. -/
theorem test_setPixelSpiral : holds (exec (.setPixelSpiral 0 0x0000FF) (lit 5)) (painted [64] 0x0000FFE5 0x000000E5) := by
  decide +kernel

/-- P3: GET_PIXEL_SPIRAL 3 reads FB[61]. -/
theorem test_getPixelSpiral : holds (exec (.getPixelSpiral 3) ((lit 5).setFb 61 0x0000FFE5)) (fun t =>
    decide (t.responses = [⟨.ok, false, 0x0000FF, []⟩])) := by decide +kernel

/-- V-SER-1. -/
theorem test_serialize : holds (exec .serialize (lit 1)) (fun t =>
    decide (t.responses = [⟨.ok, false, 0, quad 0 0 0 0 ++ quads 64 (quad 0xE1 0 0 0) ++ quad 0xFF 0xFF 0xFF 0xFF⟩] ∧
      t.frames = [])) := by decide +kernel

/-- V-SER-2. -/
theorem test_render : holds (exec .render (withAnswers [.ok] ((lit 5).setFb 1 0xFF0000E5))) (fun t =>
    decide (t.responses = [⟨.ok, false, 0, []⟩] ∧ t.frames =
      [⟨quad 0 0 0 0 ++ quad 0xE5 0 0 0xFF ++ quads 63 (quad 0xE5 0 0 0) ++ quad 0xFF 0xFF 0xFF 0xFF, .ok⟩])) := by
  decide +kernel

/-- V-SER-3: the same frame, answered IOERR. -/
theorem test_render_ioErr : holds (exec .render (withAnswers [.ioErr, .ok] ((lit 5).setFb 1 0xFF0000E5))) (fun t =>
    decide (t.responses = [⟨.ioError, false, 0, []⟩] ∧ t.frames.length = 1 ∧ t.busIn = [.ok] ∧ t.fb 1 = 0xFF0000E5)) := by
  decide +kernel

/-- V-PAT-22. -/
theorem test_fill_ioErr : holds (exec (.fill 0x00FF00) (withAnswers [.ioErr] (lit 5))) (fun t =>
    painted [] 0 0x00FF00E5 t && decide (t.responses = [⟨.ioError, false, 0, []⟩])) := by decide +kernel

/-- V-PAT-2, after a FILL. -/
theorem test_clear : holds (exec .clear (withAnswers [.ok] (paint allSet 0x102030 (lit 5)))) (fun t =>
    painted [] 0 0x000000E5 t && decide (t.frames.length = 1)) := by decide +kernel

/-- V-PAT-4. -/
theorem test_filledCircle : holds (exec (.filledCircle 1 0x0000FF) (withAnswers [.ok] (lit 5)))
    (painted (List.range' 49 16) 0x0000FFE5 0x000000E5) := by decide +kernel

/-- V-PAT-9. -/
theorem test_ring : holds (exec (.ring 2 0x00FF00) (withAnswers [.ok] (lit 5)))
    (painted (List.range' 29 20) 0x00FF00E5 0x000000E5) := by decide +kernel

/-- V-PAT-11: no write, no transmission. -/
theorem test_ring_radius : holds (exec (.ring 255 0x00FF00) (withAnswers [.ok] (lit 5))) (fun t =>
    painted [] 0 0x000000E5 t && decide (t.responses = [⟨.invalidRadius, false, 0, []⟩] ∧ t.frames = [] ∧ t.busIn = [.ok])) := by
  decide +kernel

/-- V-PAT-15. -/
theorem test_fillHalf : holds (exec (.fillHalf 3 0x00FF00) (withAnswers [.ok] (lit 5)))
    (painted [5, 6, 7, 8, 13, 14, 15, 16, 21, 22, 23, 24, 29, 30, 31, 32, 37, 38, 39, 40, 45, 46, 47, 48, 53, 54, 55, 56,
      61, 62, 63, 64] 0x00FF00E5 0x000000E5) := by decide +kernel

/-- V-PAT-20. -/
theorem test_fillQuarter24 : holds (exec (.fillQuarter24 3 0x00FF00) (withAnswers [.ok] (lit 5)))
    (painted [6, 7, 8, 14, 15, 16, 22, 23, 24, 30, 31, 32, 38, 39, 40, 46, 47, 48, 54, 55, 56, 62, 63, 64]
      0x00FF00E5 0x000000E5) := by decide +kernel

/-- V-PAT-21. -/
theorem test_fillQuarter24_side : holds (exec (.fillQuarter24 9 0x00FF00) (withAnswers [.ok] (lit 5))) (fun t =>
    painted [] 0 0x000000E5 t && decide (t.responses = [⟨.invalidSide, false, 0, []⟩] ∧ t.frames = [])) := by
  decide +kernel

/-! ### One step -/

/-- V-DEC-7 and V-DEC-8 before INIT. -/
theorem test_step_priority :
    holds (sendCommand 0x3000000000 start) (fun t => decide (t.responses = [⟨.notInitialized, false, 0, []⟩])) ∧
    holds (sendCommand 0x5140000000 start) (fun t => decide (t.responses = [⟨.illegalCommand, false, 0, []⟩])) := by
  decide +kernel

/-- A word of each of the 13 rows and of an illegal opcode, each the first step from reset, gives a next state with one
response and the port free; INIT leaves INIT = 1, every other leaves it 0 (R66, R111). -/
theorem test_step_first_word :
    ((List.range 16).all fun op => holds (step (State.reset.withFetchWord 40 (op * 2 ^ 36 + 5 * 2 ^ 24))) (fun t =>
      decide (t.responses.length = 1 ∧ t.busy = false ∧ t.cmdIn = none ∧ t.init = decide (op = 1)))) = true := by
  decide +kernel

/-- RST clears INIT and is refused in flight (R131). -/
theorem test_step_reset :
    holds (step { lit 5 with rstIn := true }) (fun t => decide (t.init = false ∧ t.rstIn = false ∧ t.responses = [])) ∧
    (match step { transmit (lit 5) with rstIn := true } with
      | .refused .resetWhileBusy => true
      | _ => false) = true := by decide +kernel

/-! ### Witnesses: states and operands that meet the hypotheses of the statements, clause by clause -/

theorem spiralT_ok : start.spiralOk := by decide +kernel

theorem lit_marked (b : Nat) : (lit b).pixelsMarked := by
  intro _ k h1 h2
  unfold lit
  rw [fb_construct b start h1 h2]
  simp

/-- An initialised state that meets the invariant. -/
theorem lit_inv (b : Nat) : (lit b).Inv :=
  ⟨spiralT_ok, lit_marked b, rfl, (fun _ h => by cases h), (fun _ h => by cases h), (fun _ h => by cases h)⟩

theorem witness_EncoderAndDecoderRoundTrip : (0xFFFFFFFF#32).extractLsb' 5 3 = 0b111#3 := by decide

theorem witness_SerializerIsLittleEndian : 0 ≤ 65 ∧ 65 ≤ 65 ∧ 0 ≤ 3 ∧ 3 ≤ 3 := by decide

theorem witness_FrameOfAConstructedBuffer : (lit 5).pixelsMarked ∧ (lit 5).init = true ∧ 1 ≤ 64 ∧ 64 ≤ 64 :=
  ⟨lit_marked 5, rfl, by decide, by decide⟩

theorem witness_FrameMarkersAreHardwired : (65 = 0 ∨ 65 = 65) ∧ (0 = 0 ∨ 0 = 65) ∧ (lit 5).init = true := by decide

theorem witness_SpiralTranslationIsABijection : (lit 5).spiralOk ∧ 63 < 64 ∧ 1 ≤ 64 ∧ 64 ≤ 64 :=
  ⟨spiralT_ok, by decide⟩

theorem witness_SpiralSetsMeetTheirPredicates : 0 ≤ 3 ∧ 3 ≤ 3 := by decide

/-- Both halves of R106 have members: a ring of another radius, a circle, a quarter. -/
theorem witness_IndexSetProperties :
    start.spiralOk ∧ 3 ≤ 3 ∧ 0 ≠ 3 ∧ 64 ∈ ringSet start 0 ∧ 1 ∈ ringSet start 3 ∧ 64 ∈ circleSet start 0 ∧
      32 ∈ halfSet .left ∧ 60 ∈ halfSet .top ∧ 24 ∈ quarterSet .left ∧ 59 ∈ quarterSet .top :=
  ⟨spiralT_ok, by decide +kernel⟩

theorem witness_DecodeOfEncode : (Instr.setPixel 255 0xFFFFFF).wellFormed = true := by decide

theorem witness_EncodeOfDecode : decode 0x60AB123456#40 = .ok .serialize := by decide +kernel

theorem witness_IgnoredFieldsDoNotMatter :
    (lit 5).idle ∧
    (opField 0x1001FFFFFF#40 = opField 0x1001000000#40 ∧ rsvField 0x1001FFFFFF#40 = rsvField 0x1001000000#40 ∧
      (opField 0x1001FFFFFF#40).toNat ∈ [1, 3, 5] ∧ argField 0x1001FFFFFF#40 = argField 0x1001000000#40) ∧
    (opField 0x60AB123456#40 = opField 0x6000000000#40 ∧ rsvField 0x60AB123456#40 = rsvField 0x6000000000#40 ∧
      (opField 0x60AB123456#40).toNat ∈ [6, 7, 9]) ∧
    (opField 0x8007000001#40 = opField 0x8000000001#40 ∧ rsvField 0x8007000001#40 = rsvField 0x8000000001#40 ∧
      (opField 0x8007000001#40).toNat = 8 ∧ colorField 0x8007000001#40 = colorField 0x8000000001#40) :=
  ⟨⟨rfl, rfl⟩, by decide +kernel⟩

/-- Operand texts at the edges: 255 and 256 in both bases, either case, 0xFFFFFF and 0x1000000, the largest 40-bit word and
the next, a side by name; and lines that are accepted. -/
theorem witness_AssemblerWritesEncodings :
    numberWrites "255".toList 255 ∧ numberWrites "0xFf".toList 255 ∧ numberWrites "256".toList 256 ∧
    numberWrites "0xFFFFFF".toList 0xFFFFFF ∧ numberWrites "0x1000000".toList 0x1000000 ∧
    hexWrites "0xffffffffff".toList 0xFFFFFFFFFF ∧ hexWrites "0x10000000000".toList 0x10000000000 ∧
    assembleLine (lineOne "INIT".toList "255".toList) = some 0x10FF000000#40 ∧
    assembleLine (lineTwo "FILL_HALF".toList "TOP".toList "0x00FF00".toList) = some 0xC00200FF00#40 ∧
    assembleLine (lineOne ".word40".toList "0xF000000000".toList) = some 0xF000000000#40 := by
  have ten : ∀ ds cs, ds ≠ [] → List.Forall₂ (fun ch d => d < 10 ∧ (ch = Nat.digitChar d ∨ ch = (Nat.digitChar d).toUpper)) cs ds →
      numberWrites cs (Nat.ofDigits 10 ds.reverse) := fun ds _ h1 h2 => .inl ⟨ds, h1, rfl, h2⟩
  have hex : ∀ ds cs, ds ≠ [] → List.Forall₂ (fun ch d => d < 16 ∧ (ch = Nat.digitChar d ∨ ch = (Nat.digitChar d).toUpper)) cs ds →
      hexWrites ('0' :: 'x' :: cs) (Nat.ofDigits 16 ds.reverse) := fun ds cs h1 h2 => ⟨cs, rfl, ds, h1, rfl, h2⟩
  exact ⟨ten [2, 5, 5] _ (by decide) (by decide), .inr (hex [15, 15] _ (by decide) (by decide)),
    ten [2, 5, 6] _ (by decide) (by decide), .inr (hex (List.replicate 6 15) _ (by decide) (by decide)),
    .inr (hex (1 :: List.replicate 6 0) _ (by decide) (by decide)), hex (List.replicate 10 15) _ (by decide) (by decide),
    hex (1 :: List.replicate 10 0) _ (by decide) (by decide), by decide +kernel⟩

theorem witness_StepRunsTheDecodedCommand :
    let s := offered 0x2001FF0000#40 (lit 5)
    s.rstIn = false ∧ s.busy = false ∧ s.cmdIn = some 0x2001FF0000#40 ∧
      decode 0x2001FF0000#40 = .ok (.setPixel 1 0xFF0000) := by decide +kernel

theorem witness_IllegalCommandIsAnsweredFirst :
    start.idle ∧ (opField 0xF0FFFFFFFF#40 ∈ [0x0#4, 0xE#4, 0xF#4]) ∧ rsvField 0x1F00000000#40 ≠ 0b0000#4 :=
  ⟨⟨rfl, rfl⟩, by decide +kernel⟩

theorem witness_ResetEventGivesResetState :
    ({ lit 5 with rstIn := true } : State).rstIn = true ∧ (lit 5).busy = false ∧ (transmit (lit 5)).busy = true := by
  decide +kernel

theorem witness_BusyIsBackPressure :
    (transmit (lit 5)).rstIn = false ∧ (transmit (lit 5)).busy = true ∧
    (lit 5).rstIn = false ∧ (lit 5).busy = false ∧ (lit 5).cmdIn = none := by decide +kernel

theorem witness_CommandsBeforeInitAreRefused :
    start.init = false ∧ ∀ b8, Instr.getPixel 0 ≠ .init b8 := ⟨rfl, by simp⟩

/-- One word per clause, each at the edge of its range. -/
theorem witness_ErrorsComeInPriorityOrder :
    (lit 5).idle ∧ start.idle ∧ (lit 5).init = true ∧ start.init = false ∧
    ((opField 0xE000000000#40).toNat ∈ [0, 14, 15]) ∧ rsvField 0x5140000000#40 ≠ 0 ∧
    (rsvField 0xD004000000#40 = 0 ∧ (opField 0xD004000000#40).toNat ∉ [0, 14, 15] ∧
      (opField 0xD004000000#40).toNat ≠ 1) ∧
    ((opField 0x2041000000#40).toNat ∈ [2, 3] ∧ 65 ≤ argField 0x2041000000#40) ∧
    ((opField 0x3000000000#40).toNat ∈ [2, 3] ∧ argField 0x3000000000#40 = 0) ∧
    ((opField 0x4040000000#40).toNat ∈ [4, 5] ∧ 64 ≤ argField 0x4040000000#40) ∧
    ((opField 0xA004000000#40).toNat ∈ [10, 11] ∧ 4 ≤ argField 0xA004000000#40) ∧
    ((opField 0xD004000000#40).toNat ∈ [12, 13] ∧ 4 ≤ argField 0xD004000000#40) :=
  ⟨⟨rfl, rfl⟩, ⟨rfl, rfl⟩, by decide +kernel⟩

theorem witness_ResponsesHaveTheirFormat :
    start.idle ∧ ∃ t, sendCommand 0x10C8000000#40 start = .next t ∧ ⟨.ok, true, 0, []⟩ ∈ t.responses :=
  ⟨⟨rfl, rfl⟩, _, rfl, by decide +kernel⟩

theorem witness_IoErrorKeepsTheWrites :
    transmitter (.ring 3 0x00FF00) = true ∧ operandValid (.ring 3 0x00FF00) ∧ (lit 5).init = true :=
  ⟨rfl, by unfold operandValid; decide, rfl⟩

theorem witness_InitConstructsTheBuffer :
    0x10FFFFFFFF#40 &&& 0xFF00000000#40 = 0x1000000000#40 ∧ 31 ≤ 31 ∧ 31 < 32 ∧ 1 ≤ 1 ∧ 64 ≤ 64 := by decide +kernel

theorem witness_SetPixelWritesOneWord :
    0x20FFFFFFFF#40 &&& 0xFF00000000#40 = 0x2000000000#40 ∧ (lit 5).init = true ∧ 1 ≤ 1 ∧ 64 ≤ 64 ∧ (65 = 0 ∨ 65 ≤ 65) ∧
      (0 = 0 ∨ 65 ≤ 0) := by decide +kernel

theorem witness_GetPixelReadsTheColour :
    0x30FFFFFFFF#40 &&& 0xFF00000000#40 = 0x3000000000#40 ∧ (lit 5).init = true ∧ 1 ≤ 64 ∧ 64 ≤ 64 ∧
      (65 = 0 ∨ 65 ≤ 65) := by decide +kernel

theorem witness_SetPixelSpiralWritesOneWord :
    0x40FFFFFFFF#40 &&& 0xFF00000000#40 = 0x4000000000#40 ∧ (lit 5).spiralOk ∧ (lit 5).init = true ∧ 63 < 64 ∧
      64 ≤ 64 := ⟨by decide +kernel, spiralT_ok, rfl, by decide, by decide⟩

theorem witness_GetPixelSpiralReadsTheColour :
    0x50FFFFFFFF#40 &&& 0xFF00000000#40 = 0x5000000000#40 ∧ (lit 5).init = true ∧ 63 < 64 ∧ 64 ≤ 64 := by decide +kernel

theorem witness_SpiralCommandsAreLinearOnes :
    (lit 5).spiralOk ∧ 63 < 64 ∧ (lit 5).init = true ∧ (lit 5).idle := ⟨spiralT_ok, by decide, rfl, rfl, rfl⟩

theorem witness_GetAfterSetGivesTheColour : (lit 5).init = true ∧ (lit 5).idle ∧ 1 ≤ 64 ∧ 64 ≤ 64 :=
  ⟨rfl, ⟨rfl, rfl⟩, by decide, by decide⟩

theorem witness_SerializeReturnsTheFrame :
    0x60AB123456#40 &&& 0xFF00000000#40 = 0x6000000000#40 ∧ (lit 5).init = true ∧ 65 ≤ 65 ∧ 3 ≤ 3 := by decide +kernel

theorem witness_ReadingCommandsAreIdempotent :
    (lit 5).init = true ∧ (Instr.getPixel 0 = .serialize ∨ (∃ k, Instr.getPixel 0 = .getPixel k) ∨
      ∃ p, Instr.getPixel 0 = .getPixelSpiral p) := ⟨rfl, .inr (.inl ⟨0, rfl⟩)⟩

theorem witness_RenderTransmitsTheFrame :
    0x70FFFFFFFF#40 &&& 0xFF00000000#40 = 0x7000000000#40 ∧ (withAnswers [.ioErr, .ok] (lit 5)).init = true ∧
      (withAnswers [.ioErr, .ok] (lit 5)).busIn = .ioErr :: [.ok] := by decide +kernel

theorem witness_OnlyRenderAndPatternsTransmit :
    (transmitter (.setPixel 65 0) = false ∧ ∃ t, exec (.setPixel 65 0) (lit 5) = .next t) ∧
    transmitter .render = true ∧ operandValid .render ∧ (withAnswers [.ok] (lit 5)).init = true ∧
      (withAnswers [.ok] (lit 5)).busIn = .ok :: [] := ⟨⟨rfl, _, rfl⟩, rfl, trivial, rfl, rfl⟩

/-- Each of the seven commands, with operands at the edges of their ranges. -/
theorem witness_SilentSinkLeavesTheBlockStuck :
    (∀ i ∈ [Instr.render, .fill 0, .clear, .filledCircle 3 0, .ring 0 0, .fillHalf 3 0, .fillQuarter24 0 0],
      transmitter i = true ∧ operandValid i) ∧ (lit 5).init = true ∧ (lit 5).rstIn = false ∧ (lit 5).busIn = [] :=
  ⟨by simp [transmitter, operandValid], rfl, rfl, rfl⟩

theorem witness_LateAnswerEndsTheCommandAlike :
    transmitter .clear = true ∧ operandValid .clear ∧ (lit 5).init = true ∧ (lit 5).rstIn = false ∧
      ∃ t, exec .clear { lit 5 with busIn := [] } = .next t := ⟨rfl, trivial, rfl, rfl, _, rfl⟩

theorem witness_FillPaintsEveryPixel :
    0x80FFFFFFFF#40 &&& 0xFF00000000#40 = 0x8000000000#40 ∧ (withAnswers [.ioErr] (lit 5)).init = true ∧
      (withAnswers [.ioErr] (lit 5)).busIn = .ioErr :: [] := by decide +kernel

theorem witness_ClearPaintsEveryPixelBlack :
    0x9000FFFFFF#40 &&& 0xFF00000000#40 = 0x9000000000#40 ∧ (withAnswers [.ok] (lit 5)).init = true ∧
      (withAnswers [.ok] (lit 5)).busIn = .ok :: [] := by decide +kernel

theorem witness_FilledCirclePaintsASpiralPrefix :
    0xA0FFFFFFFF#40 &&& 0xFF00000000#40 = 0xA000000000#40 ∧ (withAnswers [.ok] (lit 5)).spiralOk ∧
      (withAnswers [.ok] (lit 5)).init = true ∧ 3 ≤ 3 ∧ (withAnswers [.ok] (lit 5)).busIn = .ok :: [] ∧ 4 ≤ 4 :=
  ⟨by decide +kernel, spiralT_ok, rfl, by decide, rfl, by decide⟩

theorem witness_RingPaintsOneSpiralRing :
    0xB0FFFFFFFF#40 &&& 0xFF00000000#40 = 0xB000000000#40 ∧ (withAnswers [.ok] (lit 5)).spiralOk ∧
      (withAnswers [.ok] (lit 5)).init = true ∧ 3 ≤ 3 ∧ (withAnswers [.ok] (lit 5)).busIn = .ok :: [] ∧ 4 ≤ 4 :=
  ⟨by decide +kernel, spiralT_ok, rfl, by decide, rfl, by decide⟩

theorem witness_FillHalfPaintsOneHalf :
    0xC0FFFFFFFF#40 &&& 0xFF00000000#40 = 0xC000000000#40 ∧ (withAnswers [.ok] (lit 5)).init = true ∧ 3 ≤ 3 ∧
      (withAnswers [.ok] (lit 5)).busIn = .ok :: [] ∧ 4 ≤ 4 := by decide +kernel

theorem witness_FillQuarterPaints24Pixels :
    0xD0FFFFFFFF#40 &&& 0xFF00000000#40 = 0xD000000000#40 ∧ (withAnswers [.ok] (lit 5)).init = true ∧ 3 ≤ 3 ∧
      (withAnswers [.ok] (lit 5)).busIn = .ok :: [] ∧ 4 ≤ 4 := by decide +kernel

/-- A state that meets the invariant and takes a step: it runs FILL_HALF. -/
theorem witness_StepKeepsInvariant :
    (offered 0xC00200FF00#40 (lit 5)).Inv ∧ ∃ t, step (offered 0xC00200FF00#40 (lit 5)) = .next t :=
  ⟨⟨spiralT_ok, lit_marked 5, rfl, (fun _ h => by cases h), (fun _ h => by cases h), (fun _ h => by cases h)⟩, _, rfl⟩

theorem witness_SpiralTableIsNeverWritten : ∃ t, step (offered 0x403FABCDEF#40 (lit 5)) = .next t := ⟨_, rfl⟩

/-- INIT on the port: both registers change. -/
theorem witness_OnlyInitAndResetWriteTheRegisters :
    ∃ t, step (offered 0x1005000000#40 start) = .next t ∧ (t.init ≠ start.init ∨ t.bright ≠ start.bright) :=
  ⟨_, rfl, .inl (by decide)⟩

/-- Two states before INIT that do differ in BRIGHT and in the pixels. -/
theorem witness_UnspecifiedResetValuesAreNeverObserved :
    sameButUnspecified start { start with bright := 7, pixels := Vector.replicate 64 0x12345678 } := ⟨rfl, rfl⟩

theorem witness_OneResponsePerCommand :
    (withAnswers [.ok, .ioErr] (lit 5)).idle ∧
      [0xF000000000#40, 0x7000000000#40].length ≤ (withAnswers [.ok, .ioErr] (lit 5)).busIn.length :=
  ⟨⟨rfl, rfl⟩, by decide⟩

end Sys2Proof.Tests
end

section
/-! PROOFS. The scope: the spiral table is a bijection (R8, R41), and every step keeps the invariant of the block. -/

namespace Sys2Proof.Machine

/-! ### Spiral translation under the bijection of R8 (R41) -/

/-- LIN reads the table's list of linear indices. -/
theorem lin_eq_getElem (s : State) {p : Nat} (hp : p < 64) :
    s.lin p = (s.spiral.toList.map BitVec.toNat)[p]'(by simpa using hp) := by
  simp [State.lin, hp]

theorem lin_range {s : State} (h : s.spiralOk) {p : Nat} (hp : p < 64) : 1 ≤ s.lin p ∧ s.lin p ≤ 64 := by
  have hm : s.lin p ∈ List.range' 1 64 := h.subset (lin_eq_getElem s hp ▸ List.getElem_mem _)
  rw [List.mem_range'_1] at hm
  omega

theorem exists_lin_eq {s : State} (h : s.spiralOk) {k : Nat} (h1 : 1 ≤ k) (h2 : k ≤ 64) :
    ∃ p, p < 64 ∧ s.lin p = k := by
  have hm : k ∈ List.range' 1 64 := List.mem_range'_1.2 (by omega)
  obtain ⟨p, hp, he⟩ := List.getElem_of_mem (h.symm.subset hm)
  have hp' : p < 64 := by simpa using hp
  exact ⟨p, hp', (lin_eq_getElem s hp').trans he⟩

theorem lin_injective {s : State} (h : s.spiralOk) {p q : Nat} (hp : p < 64) (hq : q < 64)
    (he : s.lin p = s.lin q) : p = q := by
  have hn : (s.spiral.toList.map BitVec.toNat).Nodup := h.nodup_iff.2 List.nodup_range'
  rw [lin_eq_getElem s hp, lin_eq_getElem s hq] at he
  exact (hn.getElem_inj_iff).1 he

/-- Settles O6: a table that is a permutation of 1..64 has its entries in range, each index at some position, and no
index twice. -/
theorem spiralTranslationIsABijection : Obligations.SpiralTranslationIsABijection := by
  intro s h
  refine ⟨fun p hp => lin_range h hp, fun k h1 h2 => ?_⟩
  obtain ⟨p, hp, he⟩ := exists_lin_eq h h1 h2
  exact ⟨p, hp, he, fun q hq hk => lin_injective h hq hp (hk.trans he.symm)⟩

/-! ### The state after reset -/

/-- The entries of a table laid out from `perm` are `perm`'s positions counted from 1. -/
theorem toNat_spiralTable (perm : Fin 64 → Fin 64) :
    (spiralTable perm).toList.map BitVec.toNat = List.ofFn fun i => (perm i).val + 1 := by
  have hlt : ∀ i, ((perm i).val + 1) % 128 = (perm i).val + 1 := fun i => Nat.mod_eq_of_lt (by omega)
  simp [spiralTable, Vector.toList_ofFn, hlt]

/-- The table laid out from a permutation is a bijection onto 1..64 (R8). -/
theorem spiralTable_perm (perm : Equiv.Perm (Fin 64)) :
    ((spiralTable perm).toList.map BitVec.toNat).Perm (List.range' 1 64) := by
  have hid : List.range' 1 64 = List.ofFn fun i : Fin 64 => i.val + 1 := by decide
  rw [toNat_spiralTable, hid]
  exact Equiv.Perm.ofFn_comp_perm perm fun i : Fin 64 => i.val + 1

/-- Settles O44: SPIRAL is laid out from a permutation; INIT = 0 and nothing is in flight, answered or sent. -/
theorem resetMeetsInvariant : Obligations.ResetMeetsInvariant where
  spiral := spiralTable_perm Config.spiralPerm
  marked := nofun
  busy := rfl
  flight := nofun
  responses := nofun
  frames := nofun

/-! ### Marker and brightness of the pixel words (R25) -/

theorem pixelsMarked_writePixel {s : State} (h : s.pixelsMarked) (k : Nat) (c : Colour) :
    (writePixel k c s).pixelsMarked := by
  intro hi j h1 h2
  rw [writePixel_bright, fb_writePixel]
  split
  · exact ⟨marker_enc c s.bright, brightness_enc c s.bright⟩
  · exact h (by simpa using hi) j h1 h2

theorem pixelsMarked_paint {s : State} (h : s.pixelsMarked) (S : List Nat) (c : Colour) :
    (paint S c s).pixelsMarked := by
  induction S generalizing s with
  | nil => exact h
  | cons k S ih => exact ih (pixelsMarked_writePixel h k c)

theorem pixelsMarked_construct (b8 : Nat) (s : State) : (construct b8 s).pixelsMarked := by
  intro _ k h1 h2
  rw [fb_construct b8 s h1 h2]
  exact ⟨marker_enc _ _, brightness_enc _ _⟩

/-- SER of a constructed buffer has the form of R89: the brightness byte of every pixel is that of BRIGHT (R74). -/
theorem frameShape_ser {s : State} (h : s.pixelsMarked) (hi : s.init = true) : frameShape s.ser := by
  refine ⟨length_ser s, fun m hm => ?start, fun m hm => ?last, s.bright, fun k h1 h2 => ?pixel⟩
  case start =>
    have hb := getElem?_ser s (k := 0) (by decide) hm
    rw [Nat.mul_zero, Nat.zero_add, fb_zero] at hb
    rw [hb]
    interval_cases m <;> rfl
  case last =>
    rw [show 260 + m = 4 * 65 + m from rfl, getElem?_ser s (by decide) hm, fb_end]
    interval_cases m <;> rfl
  case pixel =>
    obtain ⟨hm, hb⟩ := h hi k h1 h2
    have hw := word_eq_enc (s.fb k) s.bright hm hb
    calc s.ser[4 * k]? = some ((s.fb k).extractLsb' 0 8) := getElem?_ser s (m := 0) (by omega) (by decide)
      _ = some (0b111#3 ++ s.bright) := by rw [hw, lowByte_enc]

/-! ### The form of a response (R60) -/

theorem responseShape_error {e : Status} (he : e ≠ .invalidBrightness) : responseShape ⟨e, false, 0, []⟩ :=
  ⟨he, fun _ => ⟨rfl, rfl, rfl⟩, .inl rfl⟩

theorem responseShape_ok (warn : Bool) (data : Colour) {stream : List Byte} (h : stream = [] ∨ frameShape stream) :
    responseShape ⟨.ok, warn, data, stream⟩ :=
  ⟨nofun, fun hne => absurd rfl hne, h⟩

/-! ### The invariant within a command and at its end -/

/-- What holds of the state while a command runs, before its response or its frame: the invariant without BUSY, which
is 1 though no frame is in flight yet (R32). -/
structure State.MidCommand (s : State) : Prop where
  spiral : s.spiralOk
  marked : s.pixelsMarked
  noFlight : s.inFlight = none
  responses : ∀ r ∈ s.responses, responseShape r
  frames : ∀ f ∈ s.frames, frameShape f.bytes

theorem State.Inv.accept {s : State} (h : s.Inv) (hb : s.busy = false) : (accept s).MidCommand where
  spiral := h.spiral
  marked := h.marked
  noFlight := by simpa [hb] using h.busy
  responses := h.responses
  frames := h.frames

namespace State.MidCommand

variable {s : State} (h : s.MidCommand)
include h

theorem writePixel (k : Nat) (c : Colour) : (writePixel k c s).MidCommand where
  spiral := by simpa [State.spiralOk] using h.spiral
  marked := pixelsMarked_writePixel h.marked k c
  noFlight := by simpa using h.noFlight
  responses := by simpa using h.responses
  frames := by simpa using h.frames

theorem paint (S : List Nat) (c : Colour) : (paint S c s).MidCommand where
  spiral := by simpa [State.spiralOk] using h.spiral
  marked := pixelsMarked_paint h.marked S c
  noFlight := by simpa using h.noFlight
  responses := by simpa using h.responses
  frames := by simpa using h.frames

theorem construct (b8 : Nat) : (construct b8 s).MidCommand where
  spiral := h.spiral
  marked := pixelsMarked_construct b8 s
  noFlight := h.noFlight
  responses := h.responses
  frames := h.frames

/-- A response of the form of R60 ends the command in a state that meets the invariant. -/
theorem respond {st : Status} {warn : Bool} {data : Colour} {stream : List Byte}
    (hr : responseShape ⟨st, warn, data, stream⟩) : (respond st warn data stream s).Inv where
  spiral := h.spiral
  marked := h.marked
  busy := by simp [h.noFlight]
  flight := by simp [h.noFlight]
  responses := List.forall_mem_cons.2 ⟨hr, h.responses⟩
  frames := h.frames

end State.MidCommand

/-- Waiting for the sink keeps the invariant: the frame answered is SER of a marked buffer, and nothing is left in
flight (R85, R89). -/
theorem State.Inv.awaitAnswer {s : State} (h : s.Inv) : (awaitAnswer s).Inv := by
  have answered : ∀ bytes a rest e, e ≠ Status.invalidBrightness → s.inFlight = some bytes →
      State.Inv { s with
        busy := false, inFlight := none, busIn := rest, frames := ⟨bytes, a⟩ :: s.frames
        responses := ⟨e, false, 0, []⟩ :: s.responses } := by
    intro bytes a rest e he hf
    obtain ⟨hi, rfl⟩ := h.flight bytes hf
    exact {
      spiral := h.spiral
      marked := h.marked
      busy := rfl
      flight := nofun
      responses := List.forall_mem_cons.2 ⟨responseShape_error he, h.responses⟩
      frames := List.forall_mem_cons.2 ⟨frameShape_ser h.marked hi, h.frames⟩ }
  obtain ⟨bytes, rest, hf, -, heq⟩ | ⟨bytes, rest, hf, -, heq⟩ | ⟨-, heq⟩ := awaitAnswer_cases s
  · exact heq ▸ answered bytes .ok rest .ok (by decide) hf
  · exact heq ▸ answered bytes .ioErr rest .ioError (by decide) hf
  · exact heq.symm ▸ h

/-- TRANSMIT hands over SER of the buffer as it stands with BUSY = 1, and waits (R51, R86). -/
theorem State.MidCommand.transmit {s : State} (h : s.MidCommand) (hi : s.init = true) : (transmit s).Inv := by
  have handedOver : State.Inv { s with busy := true, inFlight := some s.ser } :=
    { spiral := h.spiral
      marked := h.marked
      busy := rfl
      flight := fun _ hb => ⟨hi, (Option.some.inj hb).symm⟩
      responses := h.responses
      frames := h.frames }
  exact handedOver.awaitAnswer

/-! ### Every step -/

/-- Whichever of the six effects a command has, it ends in a state that meets the invariant. -/
theorem Effect.inv {i : Instr} {s t : State} (he : Effect i s t) (h : s.MidCommand) : t.Inv := by
  cases he with
  | error e _ he _ => exact h.respond (responseShape_error he)
  | construction b8 _ => exact (h.construct b8).respond (responseShape_ok _ _ (.inl rfl))
  | write _ k c => exact (h.writePixel k c).respond (responseShape_ok _ _ (.inl rfl))
  | read _ _ d => exact h.respond (responseShape_ok _ _ (.inl rfl))
  | stream hi _ => exact h.respond (responseShape_ok _ _ (.inr (frameShape_ser h.marked hi)))
  | pattern hi _ S c => exact (h.paint S c).transmit (by simpa using hi)

/-- A reset event happens with nothing in flight, and INIT = 0 after it asks nothing of the pixel words (R131). -/
theorem State.Inv.resetEvent {s : State} (h : s.Inv) (hb : s.busy = false) : (resetEvent s).Inv := by
  have hf : s.inFlight = none := by simpa [hb] using h.busy
  exact {
    spiral := h.spiral
    marked := nofun
    busy := by simp [hf]
    flight := by simp [hf]
    responses := h.responses
    frames := h.frames }

/-- Settles O45, by the five kinds of step and, for a command, its six effects. -/
theorem stepKeepsInvariant : Obligations.StepKeepsInvariant := by
  intro s t h hs
  obtain ⟨-, hb, rfl⟩ | ⟨-, -, rfl⟩ | ⟨-, -, -, rfl⟩ | ⟨-, hb, w, e, -, -, rfl⟩ | ⟨-, hb, w, i, -, -, hx⟩ :=
    step_cases hs
  · exact h.resetEvent hb
  · exact h.awaitAnswer
  · exact h
  · exact (h.accept hb).respond (responseShape_error (by decide))
  · obtain ⟨t', ht', he⟩ := exec_cases i (accept s)
    obtain rfl : t' = t := Host.Outcome.next.inj (ht'.symm.trans hx)
    exact he.inv (h.accept hb)

end Sys2Proof.Machine
end

section
/-! PROOFS. The state and its ports (spec/10_state.md): SPIRAL is never written, INIT and BRIGHT are written by INIT and
reset alone, BUSY holds the command port, and every command gives one response. -/

namespace Sys2Proof.Machine

/-! ### What a wait, a transmission and a command leave unchanged -/

/-- Waiting for the sink touches no element the host could see before the response (R31). -/
theorem awaitAnswer_frame (s : State) :
    (awaitAnswer s).init = s.init ∧ (awaitAnswer s).bright = s.bright ∧ (awaitAnswer s).pixels = s.pixels ∧
      (awaitAnswer s).spiral = s.spiral ∧ (awaitAnswer s).cmdIn = s.cmdIn := by
  obtain ⟨_, _, -, -, heq⟩ | ⟨_, _, -, -, heq⟩ | ⟨-, heq⟩ := awaitAnswer_cases s <;> simp [heq]

/-- A wait goes on with nothing changed, or ends with the response that clears BUSY (R33). -/
theorem awaitAnswer_eq_self_or_responds (s : State) :
    awaitAnswer s = s ∨ ((awaitAnswer s).busy = false ∧ ∃ r, (awaitAnswer s).responses = r :: s.responses) := by
  obtain ⟨_, _, -, -, heq⟩ | ⟨_, _, -, -, heq⟩ | ⟨-, heq⟩ := awaitAnswer_cases s
  · exact .inr (by simp [heq])
  · exact .inr (by simp [heq])
  · exact .inl heq

/-- A pattern command changes none of INIT, BRIGHT and SPIRAL. -/
theorem patternApply_frame (S : List Nat) (c : Colour) (s : State) :
    (patternApply S c s).init = s.init ∧ (patternApply S c s).bright = s.bright ∧
      (patternApply S c s).spiral = s.spiral := by
  obtain ⟨hinit, hbright, -, hspiral, -, -⟩ := transmit_frame (paint S c s)
  exact ⟨hinit.trans (paint_init s S c), hbright.trans (paint_bright s S c), hspiral.trans (paint_spiral s S c)⟩

/-- The next state that a command answers is one of its six effects. -/
theorem Effect.of_exec {i : Instr} {s t : State} (h : exec i s = .next t) : Effect i s t := by
  obtain ⟨t', ht', he⟩ := exec_cases i s
  obtain rfl : t' = t := Host.Outcome.next.inj (ht'.symm.trans h)
  exact he

theorem Effect.spiral_eq {i : Instr} {s t : State} (he : Effect i s t) : t.spiral = s.spiral := by
  cases he with
  | error | construction | read | stream => rfl
  | write _ k c => exact writePixel_spiral s k c
  | pattern _ _ S c =>
    obtain ⟨-, -, hspiral⟩ := patternApply_frame S c s
    exact hspiral

/-- Among the six effects only a construction writes a register, and it leaves INIT = 1 (R19, R20). -/
theorem Effect.registers {i : Instr} {s t : State} (he : Effect i s t) :
    (t.init = s.init ∧ t.bright = s.bright) ∨ ((∃ b8, i = .init b8) ∧ t.init = true) := by
  cases he with
  | error | read | stream => exact .inl ⟨rfl, rfl⟩
  | construction b8 hi => exact .inr ⟨⟨b8, hi⟩, rfl⟩
  | write _ k c => exact .inl ⟨writePixel_init s k c, writePixel_bright s k c⟩
  | pattern _ _ S c =>
    obtain ⟨hinit, hbright, -⟩ := patternApply_frame S c s
    exact .inl ⟨hinit, hbright⟩

/-! ### SPIRAL, INIT and BRIGHT over every step (R19, R20, R26) -/

/-- Settles O46, by the five kinds of step and, for a command, its effect. -/
theorem spiralTableIsNeverWritten : Obligations.SpiralTableIsNeverWritten := by
  intro s t hs
  obtain ⟨-, -, rfl⟩ | ⟨-, -, rfl⟩ | ⟨-, -, -, rfl⟩ | ⟨-, -, _, _, -, -, rfl⟩ | ⟨-, -, _, _, -, -, hx⟩ := step_cases hs
  · exact resetEvent_spiral s
  · obtain ⟨-, -, -, hspiral, -⟩ := awaitAnswer_frame s
    exact hspiral
  · rfl
  · rfl
  · exact (Effect.of_exec hx).spiral_eq

/-- Settles O47: of the five kinds of step, waiting, idling and an illegal word keep both registers; reset is the first
alternative, and a command that changes one is a construction. -/
theorem onlyInitAndResetWriteTheRegisters : Obligations.OnlyInitAndResetWriteTheRegisters := by
  intro s t hs hchanged
  have unchanged : ¬ (t.init = s.init ∧ t.bright = s.bright) := fun ⟨hi, hb⟩ => hchanged.elim (· hi) (· hb)
  obtain ⟨hr, hb, rfl⟩ | ⟨-, -, rfl⟩ | ⟨-, -, -, rfl⟩ | ⟨-, -, _, _, -, -, rfl⟩ | ⟨-, hb, w, i, hw, hd, hx⟩ :=
    step_cases hs
  · exact .inl ⟨hr, hb, resetEvent_init s⟩
  · obtain ⟨hinit, hbright, -⟩ := awaitAnswer_frame s
    exact absurd ⟨hinit, hbright⟩ unchanged
  · exact absurd ⟨rfl, rfl⟩ unchanged
  · exact absurd ⟨rfl, rfl⟩ unchanged
  · obtain hsame | ⟨⟨b8, rfl⟩, hinit⟩ := (Effect.of_exec hx).registers
    · exact absurd hsame unchanged
    · exact .inr ⟨hb, hinit, w, b8, hw, hd⟩

/-! ### One response per command (R33, R141) -/

/-- `t` is an idle state `n` responses after `s`, with at most `n` more frames, each of which used up one answer of the
sink. -/
def State.RespondedFrom (n : Nat) (s t : State) : Prop :=
  t.idle ∧ t.responses.length = s.responses.length + n ∧
    t.frames.length + t.busIn.length = s.frames.length + s.busIn.length ∧ t.frames.length ≤ s.frames.length + n

namespace State.RespondedFrom

theorem refl {s : State} (h : s.idle) : RespondedFrom 0 s s := ⟨h, rfl, rfl, Nat.le_refl _⟩

theorem trans {m n : Nat} {s t u : State} (h₁ : RespondedFrom m s t) (h₂ : RespondedFrom n t u) :
    RespondedFrom (n + m) s u := by
  obtain ⟨-, hresp₁, hsum₁, hframes₁⟩ := h₁
  obtain ⟨hidle, hresp₂, hsum₂, hframes₂⟩ := h₂
  exact ⟨hidle, by omega, by omega, by omega⟩

/-- A response given without a transmission is the one response. -/
theorem respond {s : State} (hr : s.rstIn = false) (st : Status) (warn : Bool) (data : Colour) (stream : List Byte) :
    RespondedFrom 1 s (respond st warn data stream s) := ⟨⟨rfl, hr⟩, rfl, rfl, Nat.le_succ _⟩

/-- A transmission whose answer is there uses it up and gives the one response (R86). -/
theorem transmit {s : State} (hr : s.rstIn = false) (hb : s.busIn ≠ []) : RespondedFrom 1 s (transmit s) := by
  obtain ⟨a, rest, hcons⟩ := List.exists_cons_of_ne_nil hb
  rw [transmit_answered s a rest hcons]
  refine ⟨⟨rfl, hr⟩, rfl, ?_, Nat.le_refl _⟩
  simp only [hcons, List.length_cons]
  omega

/-- Responses, frames and answers are counted the same before a painting. -/
theorem of_paint {n : Nat} {s t : State} {S : List Nat} {c : Colour} (h : RespondedFrom n (paint S c s) t) :
    RespondedFrom n s t := by
  simpa [RespondedFrom] using h

end State.RespondedFrom

/-- With an answer of the sink there, each of the six effects is one response. -/
theorem Effect.respondedFrom {i : Instr} {s t : State} (he : Effect i s t) (hr : s.rstIn = false)
    (hb : s.busIn ≠ []) : State.RespondedFrom 1 s t := by
  cases he with
  | error e => exact .respond hr e false 0 []
  | construction b8 => exact .respond hr .ok (warnOf b8) 0 []
  | write _ k c =>
    have hw : (paint [k] c s).rstIn = false := (paint_rstIn s [k] c).trans hr
    exact .of_paint (.respond hw .ok false 0 [])
  | read _ _ d => exact .respond hr .ok false d []
  | stream => exact .respond hr .ok false 0 s.ser
  | pattern _ _ S c =>
    exact .of_paint (.transmit ((paint_rstIn s S c).trans hr) (by rwa [paint_busIn]))

/-- A word sent to an idle block whose sink has an answer ready gets one response, legal or not. -/
theorem sendCommand_respondedFrom (w : Command) {s : State} (h : s.idle) (hb : s.busIn ≠ []) :
    ∃ t, sendCommand w s = .next t ∧ State.RespondedFrom 1 s t := by
  have ⟨_, hr⟩ := h
  rw [sendCommand_of_idle w h]
  rcases decode w with e | i
  · exact ⟨_, rfl, .respond hr .illegalCommand false 0 []⟩
  · obtain ⟨t, hx, he⟩ := exec_cases i (accept s)
    exact ⟨t, hx, he.respondedFrom hr hb⟩

/-- Settles O49, by induction on the words: each leaves the block idle, and as it uses up at most one answer, enough are
left for the words after it. -/
theorem oneResponsePerCommand : Obligations.OneResponsePerCommand := by
  intro ws
  induction ws with
  | nil => exact fun s h _ => ⟨s, rfl, State.RespondedFrom.refl h⟩
  | cons w ws ih =>
    intro s h hlen
    rw [List.length_cons] at hlen
    obtain ⟨t, hsend, hone⟩ := sendCommand_respondedFrom w h (List.ne_nil_of_length_pos (by omega))
    have ⟨hidle, _, hsum, hframes⟩ := hone
    obtain ⟨u, hrun, hrest⟩ := ih t hidle (by omega)
    exact ⟨u, by simpa only [sendCommands, hsend] using hrun, hone.trans hrest⟩

/-! ### The kinds of step, each from its own conditions (R31, R32, R66) -/

theorem step_of_busy {s : State} (hr : s.rstIn = false) (hb : s.busy = true) : step s = .next (awaitAnswer s) := by
  simp [step, hr, hb]

theorem step_of_nothing_offered {s : State} (hr : s.rstIn = false) (hb : s.busy = false) (hc : s.cmdIn = none) :
    step s = .next s := by
  simp [step, hr, hb, hc]

theorem step_of_decoded {s : State} {w : Command} {i : Instr} (hr : s.rstIn = false) (hb : s.busy = false)
    (hc : s.cmdIn = some w) (hd : decode w = .ok i) : step s = exec i (accept s) := by
  simp [step, hr, hb, hc, hd]

/-- The host cannot offer a word to a busy block (R32, R126). -/
theorem offerCommand_of_busy (w : Command) {s : State} (hb : s.busy = true) : offerCommand w s = none := by
  simp [offerCommand, portReady, hb]

/-- Settles O16: taking the word is `accept`. -/
theorem stepRunsTheDecodedCommand : Obligations.StepRunsTheDecodedCommand :=
  fun _ _ _ hr hb hc hd => step_of_decoded hr hb hc hd

/-- Settles O19: a busy block waits for the sink, and an idle one for the host. -/
theorem busyIsBackPressure : Obligations.BusyIsBackPressure := by
  refine ⟨fun s hr hb => ?busy, fun _ hr hb hc => step_of_nothing_offered hr hb hc,
    fun w _ hb => offerCommand_of_busy w hb⟩
  case busy =>
    obtain ⟨hinit, hbright, hpixels, hspiral, hcmd⟩ := awaitAnswer_frame s
    exact ⟨awaitAnswer s, step_of_busy hr hb, hcmd, hinit, hbright, hpixels, hspiral, awaitAnswer_eq_self_or_responds s⟩

/-! ### The hardwired words (R23, R24) and the range of a linear index (R78, R79) -/

theorem exec_setPixel_of_not_pixOk {s : State} {k : Nat} (hi : s.init = true) (hk : ¬ pixOk k = true) (c : Colour) :
    exec (.setPixel k c) s = .next (raise .indexOutOfRange s) := next_whenInit hi (if_neg hk)

theorem exec_getPixel_of_not_pixOk {s : State} {k : Nat} (hi : s.init = true) (hk : ¬ pixOk k = true) :
    exec (.getPixel k) s = .next (raise .indexOutOfRange s) := next_whenInit hi (if_neg hk)

/-- Settles O5: the indices of the two hardwired words are outside 1..64. -/
theorem frameMarkersAreHardwired : Obligations.FrameMarkersAreHardwired := by
  intro s
  refine ⟨fb_zero s, fb_end s, fun k hk hi => ?_⟩
  have hout : ¬ pixOk k = true := by rw [pixOk_iff]; omega
  exact ⟨fun c => ⟨_, exec_setPixel_of_not_pixOk hi hout c, rfl⟩, _, exec_getPixel_of_not_pixOk hi hout, rfl⟩

end Sys2Proof.Machine
end

section
/-! PROOFS. Memory (spec/20_memory.md): the byte order of the serialized frame, what the reading commands answer, and
when the sink's answer is taken. -/

namespace Sys2Proof.Machine

/-! ### The byte order of the frame (R44) -/

/-- Byte m of a word is its bits [8m+7:8m]. -/
theorem getElem?_bytesOf (w : Word) {m : Nat} (hm : m < 4) : (bytesOf w)[m]? = some (w.extractLsb' (8 * m) 8) := by
  match m with
  | 0 | 1 | 2 | 3 => rfl

/-- Settles O3: the frame is laid out in words of four bytes, each word least significant byte first. -/
theorem serializerIsLittleEndian : Obligations.SerializerIsLittleEndian := by
  refine fun s => ⟨length_ser s, fun k m hk hm => ?_⟩
  calc s.ser[4 * k + m]? = (bytesOf (s.fb k))[m]? := getElem?_ser s (by omega) (by omega)
    _ = some ((s.fb k).extractLsb' (8 * m) 8) := getElem?_bytesOf (s.fb k) (by omega)

/-! ### The reading commands (R49, R79, R81, R87) -/

theorem exec_getPixel_of_pixOk {s : State} {k : Nat} (hi : s.init = true) (hk : pixOk k = true) :
    exec (.getPixel k) s = .next (respond .ok false (colorOf (s.fb k)) [] s) := next_whenInit hi (if_pos hk)

theorem exec_getPixelSpiral_of_spiOk {s : State} {p : Nat} (hi : s.init = true) (hp : spiOk p = true) :
    exec (.getPixelSpiral p) s = .next (respond .ok false (colorOf (s.fb (s.lin p))) [] s) :=
  next_whenInit hi (if_pos hp)

theorem exec_getPixelSpiral_of_not_spiOk {s : State} {p : Nat} (hi : s.init = true) (hp : ¬ spiOk p = true) :
    exec (.getPixelSpiral p) s = .next (raise .indexOutOfRange s) := next_whenInit hi (if_neg hp)

theorem exec_serialize {s : State} (hi : s.init = true) :
    exec .serialize s = .next (respond .ok false 0 s.ser s) := next_whenInit hi rfl

/-- `t` holds what the reading commands look at as `s` does. -/
def State.readsAs (t s : State) : Prop := t.init = s.init ∧ t.pixels = s.pixels ∧ t.spiral = s.spiral

/-- A reading command only responds, and the response is fixed by INIT, the pixel words and SPIRAL (R49). -/
theorem exec_reading {i : Instr} {s : State} (hs : s.init = true)
    (hi : i = .serialize ∨ (∃ k, i = .getPixel k) ∨ ∃ p, i = .getPixelSpiral p) :
    ∃ st data stream, ∀ t : State, t.readsAs s → exec i t = .next (respond st false data stream t) := by
  obtain rfl | ⟨k, rfl⟩ | ⟨p, rfl⟩ := hi
  · refine ⟨.ok, 0, s.ser, fun t ⟨hinit, hpixels, _⟩ => ?_⟩
    rw [exec_serialize (hinit.trans hs), ser_congr hpixels]
  · by_cases hk : pixOk k = true
    · refine ⟨.ok, colorOf (s.fb k), [], fun t ⟨hinit, hpixels, _⟩ => ?_⟩
      rw [exec_getPixel_of_pixOk (hinit.trans hs) hk, fb_congr hpixels]
    · exact ⟨.indexOutOfRange, 0, [], fun t ⟨hinit, _⟩ => exec_getPixel_of_not_pixOk (hinit.trans hs) hk⟩
  · by_cases hp : spiOk p = true
    · refine ⟨.ok, colorOf (s.fb (s.lin p)), [], fun t ⟨hinit, hpixels, hspiral⟩ => ?_⟩
      rw [exec_getPixelSpiral_of_spiOk (hinit.trans hs) hp, lin_congr hspiral, fb_congr hpixels]
    · exact ⟨.indexOutOfRange, 0, [], fun t ⟨hinit, _⟩ => exec_getPixelSpiral_of_not_spiOk (hinit.trans hs) hp⟩

/-- Settles O33: the first response changes nothing that the second reading looks at. -/
theorem readingCommandsAreIdempotent : Obligations.ReadingCommandsAreIdempotent := by
  intro i s hs hi
  obtain ⟨st, data, stream, hexec⟩ := exec_reading hs hi
  exact ⟨_, _, ⟨st, false, data, stream⟩, hexec s ⟨rfl, rfl, rfl⟩,
    hexec (respond st false data stream s) ⟨rfl, rfl, rfl⟩, rfl, rfl⟩

/-! ### The sink's answers and a command's writes (R52, R85) -/

/-- The block with the sink's answers `as` ready. -/
def State.withBusIn (s : State) (as : List BusAnswer) : State := { s with busIn := as }

theorem writePixel_withBusIn (k : Nat) (c : Colour) (s : State) (as : List BusAnswer) :
    writePixel k c (s.withBusIn as) = (writePixel k c s).withBusIn as := by
  unfold writePixel State.setFb
  split <;> rfl

theorem paint_withBusIn (S : List Nat) (c : Colour) (s : State) (as : List BusAnswer) :
    paint S c (s.withBusIn as) = (paint S c s).withBusIn as := by
  induction S generalizing s with
  | nil => rfl
  | cons k S ih =>
    calc paint (k :: S) c (s.withBusIn as) = paint S c (writePixel k c (s.withBusIn as)) := rfl
      _ = (paint S c (writePixel k c s)).withBusIn as := by rw [writePixel_withBusIn, ih]

/-- A command's writes do not depend on the sink: its answers are taken after them. -/
theorem paintedBy_withBusIn (i : Instr) (s : State) (as : List BusAnswer) :
    paintedBy i (s.withBusIn as) = (paintedBy i s).withBusIn as := by
  cases i with
  | init | setPixel | getPixel | setPixelSpiral | getPixelSpiral | serialize | render => rfl
  | fill c | clear | filledCircle r c | ring r c => exact paint_withBusIn _ _ s as
  | fillHalf sd c | fillQuarter24 sd c =>
    rcases h : sideOf sd with _ | side
    · simp [paintedBy, h]
    · simpa [paintedBy, h] using paint_withBusIn _ c s as

/-- A transmission that found no answer, once the answers are there, ends in one step as one that found them (R52). -/
theorem step_transmit_late {s : State} (hr : s.rstIn = false) (as : List BusAnswer) :
    step ((transmit (s.withBusIn [])).withBusIn as) = .next (transmit (s.withBusIn as)) := by
  rw [transmit_waiting (s.withBusIn []) rfl]
  exact step_of_busy hr rfl

/-- Settles O37: a transmitting command is its writes, which are the same with and without the answer there, and one
transmission. -/
theorem lateAnswerEndsTheCommandAlike : Obligations.LateAnswerEndsTheCommandAlike := by
  intro i s t a rest ht ho hi hr hexec
  have hrun (as : List BusAnswer) : exec i (s.withBusIn as) = .next (transmit ((paintedBy i s).withBusIn as)) := by
    rw [exec_transmitter ht ho (s := s.withBusIn as) hi, paintedBy_withBusIn]
  have hrst : (paintedBy i s).rstIn = false := by rw [paintedBy_eq, hr]
  obtain rfl : transmit ((paintedBy i s).withBusIn []) = t := Host.Outcome.next.inj ((hrun []).symm.trans hexec)
  exact (step_transmit_late hrst (a :: rest)).trans (hrun (a :: rest)).symm

end Sys2Proof.Machine
end

section
/-! PROOFS. Encoding (spec/30_encoding.md): decode and encode agree on every used field, the illegal words, the ignored
fields, the text of a command, and the format of a response. -/

namespace Sys2Proof

/-! ### The fields of a command (R57, R61) -/

/-- OP of a command (R61). -/
def Instr.op : Instr → BitVec 4
  | .init _ => 0x1
  | .setPixel _ _ => 0x2
  | .getPixel _ => 0x3
  | .setPixelSpiral _ _ => 0x4
  | .getPixelSpiral _ => 0x5
  | .serialize => 0x6
  | .render => 0x7
  | .fill _ => 0x8
  | .clear => 0x9
  | .filledCircle _ _ => 0xA
  | .ring _ _ => 0xB
  | .fillHalf _ _ => 0xC
  | .fillQuarter24 _ _ => 0xD

/-- The ARG operand of a command, 0 where it uses none (R64). -/
def Instr.arg : Instr → Nat
  | .init a | .setPixel a _ | .getPixel a | .setPixelSpiral a _ | .getPixelSpiral a => a
  | .filledCircle a _ | .ring a _ | .fillHalf a _ | .fillQuarter24 a _ => a
  | .serialize | .render | .fill _ | .clear => 0

/-- The COLOR operand of a command, 0 where it uses none (R64). -/
def Instr.col : Instr → Colour
  | .setPixel _ c | .setPixelSpiral _ c | .fill c => c
  | .filledCircle _ c | .ring _ c | .fillHalf _ c | .fillQuarter24 _ c => c
  | .init _ | .getPixel _ | .getPixelSpiral _ | .serialize | .render | .clear => 0

/-- The mnemonic of a command (R61). -/
def Instr.mnemonic : Instr → List Char
  | .init _ => "INIT".toList
  | .setPixel _ _ => "SET_PIXEL".toList
  | .getPixel _ => "GET_PIXEL".toList
  | .setPixelSpiral _ _ => "SET_PIXEL_SPIRAL".toList
  | .getPixelSpiral _ => "GET_PIXEL_SPIRAL".toList
  | .serialize => "SERIALIZE".toList
  | .render => "RENDER".toList
  | .fill _ => "FILL".toList
  | .clear => "CLEAR".toList
  | .filledCircle _ _ => "FILLED_CIRCLE".toList
  | .ring _ _ => "RING".toList
  | .fillHalf _ _ => "FILL_HALF".toList
  | .fillQuarter24 _ _ => "FILL_QUARTER24".toList

/-- The encoder puts the three fields of a command together (R68). -/
theorem encode_eq_cmd40 (i : Instr) : encode i = cmd40 i.op i.arg i.col := by cases i <;> rfl

/-- The opcode map makes a command of its own fields. -/
theorem decodeOp_fields (i : Instr) : decodeOp i.op i.arg i.col = .ok i := by cases i <;> rfl

/-- Only ARG can fail to fit its field. -/
theorem wellFormed_iff (i : Instr) : i.wellFormed = true ↔ i.arg < 256 := by
  cases i with
  | serialize | render | fill | clear => simp [Instr.wellFormed, Instr.arg]
  | init | setPixel | getPixel | setPixelSpiral | getPixelSpiral | filledCircle | ring | fillHalf | fillQuarter24 =>
    simp [Instr.wellFormed, Instr.arg, argFits]

/-- Decoding a word put together from its fields is the opcode map on them. -/
theorem decode_cmd40 (op : BitVec 4) {arg : Nat} (h : arg < 256) (col : Colour) :
    decode (cmd40 op arg col) = decodeOp op arg col := by
  rw [decode_of_rsv_zero (rsvField_cmd40 op arg col), opField_cmd40, argField_cmd40 op arg col h, colorField_cmd40]

/-- Settles O10: the fields of an encoded command are read back, and the opcode map makes the command of them. -/
theorem decodeOfEncode : Obligations.DecodeOfEncode := by
  intro i hi
  rw [encode_eq_cmd40, decode_cmd40 i.op ((wellFormed_iff i).1 hi)]
  exact decodeOp_fields i

/-! ### The opcode map (R61, R63, R64) -/

/-- A command that the opcode map gives has the opcode, and the operands its opcode uses. -/
theorem fields_of_decodeOp {op : BitVec 4} {arg : Nat} {col : Colour} {i : Instr} (h : decodeOp op arg col = .ok i) :
    i.op = op ∧ i.arg = (if op.toNat ∈ [6, 7, 8, 9] then 0 else arg) ∧
      i.col = (if op.toNat ∈ [1, 3, 5, 6, 7, 9] then 0 else col) := by
  unfold decodeOp at h
  split at h
  case h_14 => cases h
  all_goals
    rename_i hop
    cases h
    exact ⟨BitVec.eq_of_toNat_eq hop.symm, by rw [hop]; rfl, by rw [hop]; rfl⟩

theorem decodeOp_of_reserved {op : BitVec 4} (h : op ∈ [0x0#4, 0xE#4, 0xF#4]) (arg : Nat) (col : Colour) :
    decodeOp op arg col = .error (.reservedOpcode op) := by
  simp only [List.mem_cons, List.not_mem_nil, or_false] at h
  obtain rfl | rfl | rfl := h <;> rfl

theorem decodeOp_of_not_reserved {op : BitVec 4} (h : op ∉ [0x0#4, 0xE#4, 0xF#4]) (arg : Nat) (col : Colour) :
    ∃ i, decodeOp op arg col = .ok i := by
  unfold decodeOp
  split
  case h_14 =>
    refine absurd ?_ h
    simp only [List.mem_cons, List.not_mem_nil, or_false, ← BitVec.toNat_inj, BitVec.toNat_ofNat]
    simp only [imp_false] at *
    omega
  all_goals exact ⟨_, rfl⟩

/-- The opcodes that use ARG and ignore COLOR (R64). -/
theorem decodeOp_ignores_col {op : BitVec 4} (h : op.toNat ∈ [1, 3, 5]) (arg : Nat) (c d : Colour) :
    decodeOp op arg c = decodeOp op arg d := by
  simp only [List.mem_cons, List.not_mem_nil, or_false] at h
  obtain h | h | h := h <;> simp only [decodeOp, h]

/-- The opcodes without operands (R64). -/
theorem decodeOp_ignores_both {op : BitVec 4} (h : op.toNat ∈ [6, 7, 9]) (a b : Nat) (c d : Colour) :
    decodeOp op a c = decodeOp op b d := by
  simp only [List.mem_cons, List.not_mem_nil, or_false] at h
  obtain h | h | h := h <;> simp only [decodeOp, h]

/-- FILL ignores ARG (R64). -/
theorem decodeOp_ignores_arg {op : BitVec 4} (h : op.toNat = 8) (a b : Nat) (c : Colour) :
    decodeOp op a c = decodeOp op b c := by
  simp only [decodeOp, h]

/-! ### The decoder on any word -/

/-- A word that decodes has RSV = 0, and the opcode map gives its command. -/
theorem decode_eq_ok_iff {w : Command} {i : Instr} :
    decode w = .ok i ↔ rsvField w = 0 ∧ decodeOp (opField w) (argField w) (colorField w) = .ok i := by
  by_cases h : rsvField w = 0
  · simp [decode_of_rsv_zero h, h]
  · simp [decode_of_rsv_ne_zero h, show rsvField w ≠ 0#4 from h]

/-- Settles O11: the fields of the encoding are the command's own, and those are the used fields of the word. -/
theorem encodeOfDecode : Obligations.EncodeOfDecode := by
  intro w i hd
  obtain ⟨hrsv, hmap⟩ := decode_eq_ok_iff.1 hd
  obtain ⟨hop, harg, hcol⟩ := fields_of_decodeOp hmap
  have hfit : i.arg < 256 := by
    have := argField_lt w
    rw [harg]
    split <;> omega
  refine ⟨(wellFormed_iff i).2 hfit, ?_, hrsv, ?_, ?_⟩
  · rw [encode_eq_cmd40, opField_cmd40, hop]
  · rw [encode_eq_cmd40, argField_cmd40 i.op i.arg i.col hfit, harg]
  · rw [encode_eq_cmd40, colorField_cmd40, hcol]

theorem decode_of_reserved {w : Command} (h : opField w ∈ [0x0#4, 0xE#4, 0xF#4] ∨ rsvField w ≠ 0b0000#4) :
    ∃ e, decode w = .error e := by
  by_cases hr : rsvField w = 0b0000#4
  · rw [decode_of_rsv_zero hr]
    exact ⟨_, decodeOp_of_reserved (h.resolve_right (not_not_intro hr)) _ _⟩
  · exact ⟨_, decode_of_rsv_ne_zero hr⟩

theorem decode_of_not_reserved {w : Command}
    (h : ¬ (opField w ∈ [0x0#4, 0xE#4, 0xF#4] ∨ rsvField w ≠ 0b0000#4)) : ∃ i, decode w = .ok i := by
  obtain ⟨hop, hrsv⟩ := not_or.1 h
  rw [decode_of_rsv_zero (not_not.1 hrsv)]
  exact decodeOp_of_not_reserved hop _ _

/-- Settles O12: a reserved word decodes to an error, any other to a command, and no word to both. -/
theorem illegalWordsAreTheReservedOnes : Obligations.IllegalWordsAreTheReservedOnes := by
  intro w
  by_cases h : opField w ∈ [0x0#4, 0xE#4, 0xF#4] ∨ rsvField w ≠ 0b0000#4
  · have herr := decode_of_reserved h
    exact ⟨iff_of_true h herr, .inl herr⟩
  · obtain ⟨i, hi⟩ := decode_of_not_reserved h
    exact ⟨iff_of_false h fun ⟨e, he⟩ => (nomatch he.symm.trans hi), .inr ⟨i, hi⟩⟩

/-- Words of equal RSV decode alike when the opcode map makes the same of their other fields. -/
theorem decode_congr {w v : Command} (hrsv : rsvField w = rsvField v)
    (hmap : decodeOp (opField w) (argField w) (colorField w) = decodeOp (opField v) (argField v) (colorField v)) :
    decode w = decode v := by
  simp only [decode, hrsv, hmap]

/-- Settles O14, by evaluating the decoder on the eight words. -/
theorem writtenOutWordsDecode : Obligations.WrittenOutWordsDecode := by
  unfold Obligations.WrittenOutWordsDecode
  decide +kernel

end Sys2Proof

namespace Sys2Proof.Machine

/-! ### Ignored fields (R64) -/

/-- An idle block makes of a word what the decoder makes of it. -/
theorem sendCommand_congr {w v : Command} {s : State} (h : s.idle) (hd : decode w = decode v) :
    sendCommand w s = sendCommand v s := by
  rw [sendCommand_of_idle w h, sendCommand_of_idle v h, hd]

/-- Settles O13: words that differ in ignored fields only decode alike. -/
theorem ignoredFieldsDoNotMatter : Obligations.IgnoredFieldsDoNotMatter := by
  intro w v s hidle hop hrsv
  refine ⟨fun h harg => ?_, fun h => ?_, fun h hcol => ?_⟩ <;>
    refine sendCommand_congr hidle (decode_congr hrsv ?_)
  · rw [← hop, ← harg]
    exact decodeOp_ignores_col h _ _ _
  · rw [← hop]
    exact decodeOp_ignores_both h _ _ _ _
  · rw [← hop, ← hcol]
    exact decodeOp_ignores_arg h _ _ _

/-! ### The table of mnemonics (R61, R68) -/

section Table

variable {name : List Char} {form : List (List Char) → Option Instr}

theorem plainText_of_mem_asmTable (h : (name, form) ∈ asmTable) : plainText name :=
  have hall : asmTable.all (fun row => !row.1.isEmpty && row.1.all fun ch => ch != ' ' && ch != ',') = true := by decide
  plainText_of_all (List.all_eq_true.1 hall _ h)

/-- No mnemonic is `.word40` or another row's: a line of a mnemonic is read by that mnemonic's row. -/
theorem assembleParts_of_mem_asmTable (h : (name, form) ∈ asmTable) (ops : List (List Char)) :
    assembleParts name ops = (form ops).map encode := by
  have hall : ∀ row ∈ asmTable, assembleParts row.1 ops = (row.2 ops).map encode := by
    simp only [asmTable, List.forall_mem_cons]
    exact ⟨rfl, rfl, rfl, rfl, rfl, rfl, rfl, rfl, rfl, rfl, rfl, rfl, rfl, nofun⟩
  exact hall _ h

end Table

/-! ### The line of each form -/

theorem assembleLine_plain {name : List Char} {i : Instr} (h : (name, asmPlain i) ∈ asmTable) :
    assembleLine name = some (encode i) := by
  rw [assembleLine_none (plainText_of_mem_asmTable h), assembleParts_of_mem_asmTable h]
  rfl

theorem assembleLine_arg {name : List Char} {mk : Nat → Instr} (h : (name, asmArg mk byteOperand) ∈ asmTable)
    {a : List Char} {n : Nat} (ha : numberWrites a n) :
    assembleLine (lineOne name a) = if n ≤ 255 then some (encode (mk n)) else none := by
  rw [assembleLine_one (plainText_of_mem_asmTable h) (plainText_of_numberWrites ha), assembleParts_of_mem_asmTable h,
    asmArg, byteOperand_of_numberWrites ha]
  split <;> rfl

theorem assembleLine_colour {name : List Char} {mk : Colour → Instr} (h : (name, asmColour mk) ∈ asmTable)
    {c : List Char} {m : Nat} (hc : numberWrites c m) :
    assembleLine (lineOne name c) = if m ≤ 0xFFFFFF then some (encode (mk (BitVec.ofNat 24 m))) else none := by
  rw [assembleLine_one (plainText_of_mem_asmTable h) (plainText_of_numberWrites hc), assembleParts_of_mem_asmTable h,
    asmColour, colourOperand_of_numberWrites hc]
  split <;> rfl

section ArgColour

variable {name : List Char} {mk : Nat → Colour → Instr} {arg : List Char → Option Nat}
  (h : (name, asmArgColour mk arg) ∈ asmTable) {a c : List Char} {m : Nat} (hc : numberWrites c m)
include h hc

/-- A colour line whose first operand is the name of the value `n`. -/
theorem assembleLine_namedArg {n : Nat} (ha : plainText a) (harg : arg a = some n) :
    assembleLine (lineTwo name a c) = if m ≤ 0xFFFFFF then some (encode (mk n (BitVec.ofNat 24 m))) else none := by
  rw [assembleLine_two (plainText_of_mem_asmTable h) ha (plainText_of_numberWrites hc),
    assembleParts_of_mem_asmTable h, asmArgColour, harg, colourOperand_of_numberWrites hc]
  by_cases hm : m ≤ 0xFFFFFF <;> simp [hm]

/-- A colour line whose first operand is a number. -/
theorem assembleLine_argColour {n : Nat} (ha : numberWrites a n) (harg : arg a = byteOperand a) :
    assembleLine (lineTwo name a c) =
      if n ≤ 255 ∧ m ≤ 0xFFFFFF then some (encode (mk n (BitVec.ofNat 24 m))) else none := by
  rw [byteOperand_of_numberWrites ha] at harg
  by_cases hn : n ≤ 255
  · rw [if_pos hn] at harg
    rw [assembleLine_namedArg h hc (plainText_of_numberWrites ha) harg]
    exact if_congr (by simp [hn]) rfl rfl
  · rw [if_neg hn] at harg
    rw [assembleLine_two (plainText_of_mem_asmTable h) (plainText_of_numberWrites ha) (plainText_of_numberWrites hc),
      assembleParts_of_mem_asmTable h, asmArgColour, harg, if_neg fun hboth => hn hboth.1]
    rfl

end ArgColour

/-- A `.word40` line gives its word. -/
theorem assembleLine_word40 {a : List Char} {n : Nat} (h : hexWrites a n) :
    assembleLine (lineOne ".word40".toList a) = if n < 2 ^ 40 then some (BitVec.ofNat 40 n) else none := by
  rw [assembleLine_one (plainText_of_all (by decide)) (plainText_of_hexWrites h)]
  change asmWord40 [a] = _
  rw [asmWord40, hexNumber_of_hexWrites h, fits]
  split <;> rfl

/-! ### What an accepted line gives -/

theorem lt_of_byteOperand {cs : List Char} {n : Nat} (h : byteOperand cs = some n) : n < 256 := by
  unfold byteOperand fits at h
  split at h
  · split at h
    · cases h; assumption
    · cases h
  · cases h

theorem lt_of_sideOperand {cs : List Char} {n : Nat} (h : sideOperand cs = some n) : n < 256 := by
  unfold sideOperand at h
  split at h
  · cases h; decide
  split at h
  · cases h; decide
  split at h
  · cases h; decide
  split at h
  · cases h; decide
  exact lt_of_byteOperand h

/-- Whatever command a row's operand form gives has the mnemonic `name` and an operand that fits its field. -/
def GivesCommandOf (name : List Char) (form : List (List Char) → Option Instr) : Prop :=
  ∀ ops i, form ops = some i → i.mnemonic = name ∧ i.wellFormed = true

namespace GivesCommandOf

variable {name : List Char}

theorem asmArg {mk : Nat → Instr} (hmk : ∀ n, (mk n).mnemonic = name ∧ (mk n).arg = n) :
    GivesCommandOf name (asmArg mk byteOperand) := by
  intro ops i h
  unfold Machine.asmArg at h
  split at h
  · obtain ⟨n, hn, rfl⟩ := Option.map_eq_some_iff.1 h
    obtain ⟨hname, harg⟩ := hmk n
    exact ⟨hname, (wellFormed_iff _).2 (harg.trans_lt (lt_of_byteOperand hn))⟩
  · cases h

theorem asmArgColour {mk : Nat → Colour → Instr} {arg : List Char → Option Nat}
    (hmk : ∀ n c, (mk n c).mnemonic = name ∧ (mk n c).arg = n) (hlt : ∀ {a n}, arg a = some n → n < 256) :
    GivesCommandOf name (asmArgColour mk arg) := by
  intro ops i h
  unfold Machine.asmArgColour at h
  split at h
  · split at h
    next n c hn _ =>
      cases h
      obtain ⟨hname, harg⟩ := hmk n c
      exact ⟨hname, (wellFormed_iff _).2 (harg.trans_lt (hlt hn))⟩
    next => cases h
  · cases h

theorem asmColour {mk : Colour → Instr} (hmk : ∀ c, (mk c).mnemonic = name ∧ (mk c).wellFormed = true) :
    GivesCommandOf name (asmColour mk) := by
  intro ops i h
  unfold Machine.asmColour at h
  split at h
  · obtain ⟨c, -, rfl⟩ := Option.map_eq_some_iff.1 h
    exact hmk c
  · cases h

theorem asmPlain {j : Instr} (hj : j.mnemonic = name ∧ j.wellFormed = true) : GivesCommandOf name (asmPlain j) := by
  intro ops i h
  unfold Machine.asmPlain at h
  split at h
  · cases h
    exact hj
  · cases h

/-- Every row gives commands of its own mnemonic. -/
theorem of_mem_asmTable : ∀ row ∈ asmTable, GivesCommandOf row.1 row.2 := by
  simp only [asmTable, List.forall_mem_cons]
  exact ⟨asmArg fun _ => ⟨rfl, rfl⟩, asmArgColour (fun _ _ => ⟨rfl, rfl⟩) lt_of_byteOperand,
    asmArg fun _ => ⟨rfl, rfl⟩, asmArgColour (fun _ _ => ⟨rfl, rfl⟩) lt_of_byteOperand,
    asmArg fun _ => ⟨rfl, rfl⟩, asmPlain ⟨rfl, rfl⟩, asmPlain ⟨rfl, rfl⟩, asmColour fun _ => ⟨rfl, rfl⟩,
    asmPlain ⟨rfl, rfl⟩, asmArgColour (fun _ _ => ⟨rfl, rfl⟩) lt_of_byteOperand,
    asmArgColour (fun _ _ => ⟨rfl, rfl⟩) lt_of_byteOperand, asmArgColour (fun _ _ => ⟨rfl, rfl⟩) lt_of_sideOperand,
    asmArgColour (fun _ _ => ⟨rfl, rfl⟩) lt_of_sideOperand, nofun⟩

end GivesCommandOf

/-- An accepted line is a `.word40` line or the encoding of a well-formed command whose mnemonic is its first word. -/
theorem assembleLine_eq_some {line : List Char} {w : Command} (h : assembleLine line = some w) :
    (trim line).takeWhile (· ≠ ' ') = ".word40".toList ∨
      ∃ i : Instr, i.wellFormed = true ∧ w = encode i ∧ (trim line).takeWhile (· ≠ ' ') = i.mnemonic := by
  obtain hword | ⟨row, hrow, hname, ops, i, hi, rfl⟩ := assembleLine_cases h
  · exact .inl hword
  · obtain ⟨hmnemonic, hwf⟩ := GivesCommandOf.of_mem_asmTable row hrow ops i hi
    exact .inr ⟨i, hwf, rfl, hname.symm.trans hmnemonic.symm⟩

theorem fillHalf_mem_asmTable : ("FILL_HALF".toList, asmArgColour .fillHalf sideOperand) ∈ asmTable := by
  simp [asmTable]

theorem fillQuarter24_mem_asmTable :
    ("FILL_QUARTER24".toList, asmArgColour .fillQuarter24 sideOperand) ∈ asmTable := by
  simp [asmTable]

/-- The opcode map by mnemonics, in the order of the opcodes (R61). -/
theorem mnemonic_op_mem (i : Instr) :
    (i.mnemonic, i.op) ∈
      [("INIT".toList, 0x1#4), ("SET_PIXEL".toList, 0x2#4), ("GET_PIXEL".toList, 0x3#4),
       ("SET_PIXEL_SPIRAL".toList, 0x4#4), ("GET_PIXEL_SPIRAL".toList, 0x5#4), ("SERIALIZE".toList, 0x6#4),
       ("RENDER".toList, 0x7#4), ("FILL".toList, 0x8#4), ("CLEAR".toList, 0x9#4), ("FILLED_CIRCLE".toList, 0xA#4),
       ("RING".toList, 0xB#4), ("FILL_HALF".toList, 0xC#4), ("FILL_QUARTER24".toList, 0xD#4)] :=
  List.mem_of_getElem? (i := i.op.toNat - 1) (by cases i <;> rfl)

/-- Settles O15: the forms by their rows of the table, and any accepted line by the row that read it. -/
theorem assemblerWritesEncodings : Obligations.AssemblerWritesEncodings := by
  refine ⟨fun a n ha => ⟨?_, ?_, ?_⟩, fun a c n m ha hc => ?argColour, fun c m hc => ?colour, ⟨?_, ?_, ?_⟩,
    fun a n ha => assembleLine_word40 ha, fun line w h => ?accepted⟩
  case argColour =>
    have hside := sideOperand_of_numberWrites ha
    refine ⟨?_, ?_, ?_, ?_, assembleLine_argColour fillHalf_mem_asmTable hc ha hside,
      assembleLine_argColour fillQuarter24_mem_asmTable hc ha hside⟩
    all_goals exact assembleLine_argColour (by simp [asmTable]) hc ha rfl
  case colour =>
    have half {side : List Char} {n : Nat} := assembleLine_namedArg (a := side) (n := n) fillHalf_mem_asmTable hc
    have quarter {side : List Char} {n : Nat} :=
      assembleLine_namedArg (a := side) (n := n) fillQuarter24_mem_asmTable hc
    refine ⟨assembleLine_colour (by simp [asmTable]) hc, half ?_ rfl, half ?_ rfl, half ?_ rfl, half ?_ rfl,
      quarter ?_ rfl, quarter ?_ rfl, quarter ?_ rfl, quarter ?_ rfl⟩
    all_goals exact plainText_of_all (by decide)
  case accepted =>
    intro name
    obtain hword | ⟨i, hwf, rfl, hname⟩ := assembleLine_eq_some h
    · exact .inl hword
    · refine .inr ⟨⟨i, hwf, rfl⟩, ?_⟩
      rw [encode_eq_cmd40, opField_cmd40, show name = i.mnemonic from hname]
      exact mnemonic_op_mem i
  case refine_1 | refine_2 | refine_3 => exact assembleLine_arg (by simp [asmTable]) ha
  all_goals exact assembleLine_plain (by simp [asmTable])

/-! ### The format of a response (R60, R118) -/

/-- The format of R60 for the response to a word that decodes to `d`. -/
structure Response.HasFormat (d : Except Illegal Instr) (r : Response) : Prop where
  status : statusCode r.status ∈ [0#4, 2#4, 3#4, 4#4, 5#4, 6#4, 7#4]
  error : statusCode r.status ≠ 0#4 → r.warn = false ∧ r.data = 0x000000 ∧ r.stream = []
  warn : r.warn = true ↔ ∃ b8, d = .ok (.init b8) ∧ 31 < b8
  data : r.data ≠ 0x000000 → ∃ k, d = .ok (.getPixel k) ∨ d = .ok (.getPixelSpiral k)
  stream : r.stream ≠ [] ↔ d = .ok .serialize ∧ r.status = .ok
  length : r.stream ≠ [] → r.stream.length = 264

theorem statusCode_mem {e : Status} (h : e ≠ .invalidBrightness) :
    statusCode e ∈ [0#4, 2#4, 3#4, 4#4, 5#4, 6#4, 7#4] := by
  cases e with
  | invalidBrightness => exact absurd rfl h
  | ok | indexOutOfRange | invalidRadius | invalidSide | ioError | illegalCommand | notInitialized => decide

namespace Response.HasFormat

variable {d : Except Illegal Instr}

/-- An error to a word that is no INIT. -/
theorem error_response {e : Status} (hok : e ≠ .ok) (hbright : e ≠ .invalidBrightness)
    (hd : ∀ b8, d ≠ .ok (.init b8)) : HasFormat d ⟨e, false, 0, []⟩ where
  status := statusCode_mem hbright
  error _ := ⟨rfl, rfl, rfl⟩
  warn := ⟨nofun, fun ⟨b8, h, _⟩ => absurd h (hd b8)⟩
  data h := absurd rfl h
  stream := ⟨fun h => absurd rfl h, fun h => absurd h.2 hok⟩
  length h := absurd rfl h

/-- A success with no stream, of a command that is neither INIT nor SERIALIZE. -/
theorem ok_response {i : Instr} (hinit : ∀ b8, i ≠ .init b8) (hser : i ≠ .serialize) {data : Colour}
    (hdata : data ≠ 0 → ∃ k, i = .getPixel k ∨ i = .getPixelSpiral k) :
    HasFormat (.ok i) ⟨.ok, false, data, []⟩ where
  status := statusCode_mem nofun
  error h := absurd rfl h
  warn := ⟨nofun, fun ⟨b8, h, _⟩ => absurd (Except.ok.inj h) (hinit b8)⟩
  data h := by simpa using hdata h
  stream := ⟨fun h => absurd rfl h, fun h => absurd (Except.ok.inj h.1) hser⟩
  length h := absurd rfl h

theorem init_response (b8 : Nat) : HasFormat (.ok (.init b8)) ⟨.ok, warnOf b8, 0, []⟩ where
  status := statusCode_mem nofun
  error h := absurd rfl h
  warn := by simp [warnOf]
  data h := absurd rfl h
  stream := ⟨fun h => absurd rfl h, nofun⟩
  length h := absurd rfl h

theorem serialize_response {bytes : List Byte} (h : bytes.length = 264) :
    HasFormat (.ok .serialize) ⟨.ok, false, 0, bytes⟩ where
  status := statusCode_mem nofun
  error h := absurd rfl h
  warn := ⟨nofun, nofun⟩
  data h := absurd rfl h
  stream := iff_of_true (List.ne_nil_of_length_pos (by simp [h])) ⟨rfl, rfl⟩
  length _ := h

end Response.HasFormat

/-- Every response of `t` that `s` did not hold has the format for `d`. -/
def NewResponsesHaveFormat (d : Except Illegal Instr) (s t : State) : Prop :=
  ∀ r ∈ t.responses, r ∈ s.responses ∨ r.HasFormat d

theorem newResponsesHaveFormat_cons {d : Except Illegal Instr} {s t : State} {r : Response}
    (ht : t.responses = r :: s.responses) (hr : r.HasFormat d) : NewResponsesHaveFormat d s t := by
  rw [NewResponsesHaveFormat, ht]
  exact List.forall_mem_cons.2 ⟨.inr hr, fun _ => .inl⟩

/-- A pattern command or RENDER answers with the sink's answer, or not yet (R86, R125). -/
theorem patternApply_responses (S : List Nat) (c : Colour) (s : State) :
    (patternApply S c s).responses = s.responses ∨
      ∃ a, (patternApply S c s).responses = ⟨answerStatus a, false, 0, []⟩ :: s.responses := by
  rcases hb : (paint S c s).busIn with _ | ⟨a, rest⟩
  · exact .inl (by simp [patternApply, transmit_waiting _ hb])
  · exact .inr ⟨a, by simp [patternApply, transmit_answered _ a rest hb]⟩

/-- The effects of a command that is neither INIT nor SERIALIZE. -/
theorem Effect.newResponsesHaveFormat {i : Instr} {s t : State} (he : Effect i s t) (hinit : ∀ b8, i ≠ .init b8)
    (hser : i ≠ .serialize) : NewResponsesHaveFormat (.ok i) s t := by
  have hnoInit (b8 : Nat) : Except.ok (ε := Illegal) i ≠ .ok (.init b8) := fun h => hinit b8 (Except.ok.inj h)
  cases he with
  | error e hok hbright => exact newResponsesHaveFormat_cons rfl (.error_response hok hbright hnoInit)
  | construction b8 hi => exact absurd hi (hinit b8)
  | write _ k c =>
    exact newResponsesHaveFormat_cons (by simp) (.ok_response hinit hser fun h => absurd rfl h)
  | read _ hi d => exact newResponsesHaveFormat_cons rfl (.ok_response hinit hser fun _ => hi)
  | stream _ hi => exact absurd hi hser
  | pattern _ _ S c =>
    obtain hsame | ⟨_ | _, hcons⟩ := patternApply_responses S c s
    · exact fun r hr => .inl (hsame ▸ hr)
    · exact newResponsesHaveFormat_cons hcons (.ok_response hinit hser fun h => absurd rfl h)
    · exact newResponsesHaveFormat_cons hcons (.error_response nofun nofun hnoInit)

theorem exec_serialize_of_not_init {s : State} (hi : s.init = false) :
    exec .serialize s = .next (raise .notInitialized s) := congrArg _ (whenInit_of_not_init hi _)

/-- Every command's response has the format of R60. -/
theorem exec_newResponsesHaveFormat {i : Instr} {s t : State} (h : exec i s = .next t) :
    NewResponsesHaveFormat (.ok i) s t := by
  by_cases hinit : ∃ b8, i = .init b8
  · obtain ⟨b8, rfl⟩ := hinit
    obtain rfl := Host.Outcome.next.inj h
    exact newResponsesHaveFormat_cons rfl (.init_response b8)
  by_cases hser : i = .serialize
  · subst hser
    rcases hi : s.init with _ | _
    · obtain rfl := Host.Outcome.next.inj ((exec_serialize_of_not_init hi).symm.trans h)
      exact newResponsesHaveFormat_cons rfl (.error_response nofun nofun nofun)
    · obtain rfl := Host.Outcome.next.inj ((exec_serialize hi).symm.trans h)
      exact newResponsesHaveFormat_cons rfl (.serialize_response (length_ser s))
  · exact (Effect.of_exec h).newResponsesHaveFormat (not_exists.1 hinit) hser

/-- Settles O23: an illegal word is answered with an error, and a command with a response of its format. -/
theorem responsesHaveTheirFormat : Obligations.ResponsesHaveTheirFormat := by
  intro w s t hidle hsend r hr
  have hnew : NewResponsesHaveFormat (decode w) s t := by
    rw [sendCommand_of_idle w hidle] at hsend
    rcases hd : decode w with e | i
    · rw [hd] at hsend
      obtain rfl := Host.Outcome.next.inj hsend
      exact newResponsesHaveFormat_cons rfl (.error_response nofun nofun nofun)
    · rw [hd] at hsend
      exact exec_newResponsesHaveFormat (s := accept s) hsend
  refine (hnew r hr).imp_right fun ⟨hstatus, herror, hwarn, hdata, hstream, hlength⟩ => ?_
  exact ⟨hstatus, herror, hwarn, hdata, hstream, hlength⟩

end Sys2Proof.Machine
end

section
/-! PROOFS. The pixel word (spec/40_command_encoder.md): the encoder's layout and packed form, the decoder undoes the
encoder, and a colour written through the command port is read back. -/

namespace Sys2Proof.Machine

/-! ### The encoder (R69, R70, R76) -/

/-- Above the low byte a pixel word is its colour (R70). -/
theorem extractLsb'_enc (c : Colour) (b : Brightness) (start len : Nat) :
    (enc c b).extractLsb' (8 + start) len = c.extractLsb' start len := by
  ext i hi
  simp [getLsbD_enc, show ¬ 8 + start + i < 5 by omega, show ¬ 8 + start + i < 8 by omega,
    show 8 + start + i - 8 = start + i by omega]

/-- The marker of the packed form is bits 5 to 7 (R69). -/
theorem getLsbD_packedMarker : ∀ j < 32, (0x000000E0#32).getLsbD j = decide (5 ≤ j ∧ j < 8) := by decide

/-- The packed form: of its three parts exactly one covers each bit (R69, R76). -/
theorem enc_eq_packed (c : Colour) (b : Brightness) :
    enc c b = (c.setWidth 32 <<< 8) ||| 0x000000E0#32 ||| b.setWidth 32 := by
  apply BitVec.eq_of_getLsbD_eq
  intro j hj
  rw [getLsbD_enc, BitVec.getLsbD_or, BitVec.getLsbD_or, getLsbD_packedMarker j hj]
  by_cases hbright : j < 5
  · simp [hbright, hj, show j < 8 by omega]
  by_cases hmark : j < 8
  · have hall : ∀ i < 3, (0b111#3).getLsbD i = true := by decide
    simp [hbright, hmark, hall (j - 5) (by omega), show 5 ≤ j by omega]
  · simp [hbright, hmark, hj, show 5 ≤ j by omega]

/-- Settles O1: the concatenation is the encoder's definition, the packed form agrees with it bit by bit, and the fields
are read where the layout puts them. -/
theorem encoderLaysOutThePixelWord : Obligations.EncoderLaysOutThePixelWord := fun c b =>
  ⟨rfl, enc_eq_packed c b, extractLsb'_enc c b 16 8, extractLsb'_enc c b 8 8, extractLsb'_enc c b 0 8,
    marker_enc c b, brightness_enc c b⟩

/-- Settles O2: the three fields of an encoding are read back, and a marked word has no other fields. -/
theorem encoderAndDecoderRoundTrip : Obligations.EncoderAndDecoderRoundTrip :=
  ⟨fun c b => ⟨colorOf_enc c b, marker_enc c b, brightness_enc c b⟩, fun w hm => (word_eq_enc w _ hm rfl).symm⟩

/-! ### A colour through the command port (R72, R78, R79) -/

theorem exec_setPixel_of_pixOk {s : State} {k : Nat} (hi : s.init = true) (hk : pixOk k = true) (c : Colour) :
    exec (.setPixel k c) s = .next (respondOk (writePixel k c s)) := next_whenInit hi (if_pos hk)

/-- An idle block runs the command whose encoding it is sent (R32, R66). -/
theorem sendCommand_encode {i : Instr} {s : State} (hwf : i.wellFormed = true) (h : s.idle) :
    sendCommand (encode i) s = exec i (accept s) := by
  rw [sendCommand_of_idle _ h, decodeOfEncode i hwf]
  rfl

theorem sendCommands_cons_of_next {w : Command} {s t : State} (h : sendCommand w s = .next t) (ws : List Command) :
    sendCommands (w :: ws) s = sendCommands ws t := by
  simp only [sendCommands, h]

/-- The word of a linear index in 1..64 can be sent. -/
theorem argFits_of_pixOk {k : Nat} (hk : pixOk k = true) : argFits k = true := by
  have ⟨_, hle⟩ := pixOk_iff.1 hk
  exact decide_eq_true (show k < 256 by omega)

/-- SET_PIXEL sent to an idle block writes the pixel and answers OK (R78). -/
theorem sendCommand_setPixel {s : State} {k : Nat} (hi : s.init = true) (h : s.idle) (hk : pixOk k = true)
    (c : Colour) : sendCommand (encode (.setPixel k c)) s = .next (respondOk (writePixel k c (accept s))) := by
  rw [sendCommand_encode (i := .setPixel k c) (argFits_of_pixOk hk) h]
  exact exec_setPixel_of_pixOk (s := accept s) hi hk c

/-- GET_PIXEL sent to an idle block answers the colour of the pixel word (R79). -/
theorem sendCommand_getPixel {s : State} {k : Nat} (hi : s.init = true) (h : s.idle) (hk : pixOk k = true) :
    sendCommand (encode (.getPixel k)) s = .next (respond .ok false (colorOf (s.fb k)) [] (accept s)) := by
  rw [sendCommand_encode (i := .getPixel k) (argFits_of_pixOk hk) h]
  exact exec_getPixel_of_pixOk (s := accept s) hi hk

/-- The pixel word just written holds the colour. -/
theorem colorOf_fb_writePixel {s : State} {k : Nat} (hk : pixOk k = true) (c : Colour) :
    colorOf ((writePixel k c s).fb k) = c := by
  rw [fb_writePixel, if_pos ⟨rfl, hk⟩, colorOf_enc]

/-- Settles O31: the first response leaves the block idle with the pixel written, and COLOR_OF undoes the encoder on the
word that GET_PIXEL then reads. -/
theorem getAfterSetGivesTheColour : Obligations.GetAfterSetGivesTheColour := by
  intro i c s hi hidle h1 h64
  have hk : pixOk i = true := pixOk_iff.2 ⟨h1, h64⟩
  have ⟨_, hr⟩ := hidle
  have hset := sendCommand_setPixel hi hidle hk c
  have hget := sendCommand_getPixel (s := respondOk (writePixel i c (accept s))) (by simpa using hi)
    ⟨rfl, by simpa using hr⟩ hk
  rw [respondOk_fb, colorOf_fb_writePixel hk] at hget
  exact ⟨_, (sendCommands_cons_of_next hset _).trans (sendCommands_cons_of_next hget []), by simp, by simp⟩

end Sys2Proof.Machine
end

section
/-! PROOFS. The frame buffer commands (spec/41_framebuffer.md): INIT constructs the buffer, the pixel commands write and
read one word, the spiral commands are the linear ones at SPIRAL[s], and the bus is used by RENDER and the pattern
commands alone. -/

namespace Sys2Proof

/-! ### The words of a row of the opcode table (R61) -/

/-- The mask of the opcode table keeps the upper eight bits of a word. -/
theorem extractLsb'_and_mask (w : Command) {start len : Nat} (h1 : 32 ≤ start) (h2 : start + len ≤ 40) :
    (w &&& 0xFF00000000#40).extractLsb' start len = w.extractLsb' start len := by
  have hmask : ∀ j < 40, 32 ≤ j → (0xFF00000000#40).getLsbD j = true := by decide
  ext i hi
  simp [hmask (start + i) (by omega) (by omega)]

/-- A word that the mask takes to `m` has the opcode and RSV of `m`: with RSV = 0 its command is what the opcode map makes
of that opcode. -/
theorem decode_of_and_mask {w m : Command} (h : w &&& 0xFF00000000#40 = m) (hr : rsvField m = 0#4) :
    decode w = decodeOp (opField m) (argField w) (colorField w) := by
  have hop : opField w = opField m := h ▸ (extractLsb'_and_mask w (by decide) (by decide)).symm
  have hrsv : rsvField w = rsvField m := h ▸ (extractLsb'_and_mask w (by decide) (by decide)).symm
  rw [decode_of_rsv_zero (hrsv.trans hr), hop]

end Sys2Proof

namespace Sys2Proof.Machine

/-! ### INIT (R73, R77) -/

theorem toNat_clampBrightness {b8 : Nat} (h : b8 ≤ 31) : (clampBrightness b8).toNat = b8 := by
  rw [clampBrightness, if_neg (by omega), BitVec.toNat_ofNat]
  omega

theorem clampBrightness_of_gt {b8 : Nat} (h : 31 < b8) : clampBrightness b8 = 0b11111#5 := if_pos h

/-- Settles O25: INIT responds after the construction, which brings BRIGHT to the nearest bound and every pixel word to
colour 0. -/
theorem initConstructsTheBuffer : Obligations.InitConstructsTheBuffer := by
  refine ⟨fun w h => (decode_of_and_mask h (by decide)).trans rfl, fun b8 s => ?_⟩
  exact ⟨respond .ok (warnOf b8) 0 [] (construct b8 s), rfl, rfl, toNat_clampBrightness, clampBrightness_of_gt,
    fun k h1 h2 => fb_construct b8 s h1 h2⟩

/-! ### SET_PIXEL and GET_PIXEL (R78, R79) -/

theorem not_pixOk {k : Nat} (h : k = 0 ∨ 65 ≤ k) : ¬ pixOk k = true := by
  rw [pixOk_iff]
  omega

/-- A pixel write changes pixel words only. -/
theorem writePixel_eq (k : Nat) (c : Colour) (s : State) :
    writePixel k c s = { s with pixels := (writePixel k c s).pixels } := paint_eq s [k] c

/-- Settles O26: the write stores one pixel word and the response follows it; an index that is no pixel's is an error. -/
theorem setPixelWritesOneWord : Obligations.SetPixelWritesOneWord := by
  refine ⟨fun w h => (decode_of_and_mask h (by decide)).trans rfl, fun i c s hi h1 h64 => ?_, fun i c s hi hout => ?_⟩
  · have hk : pixOk i = true := pixOk_iff.2 ⟨h1, h64⟩
    refine ⟨_, exec_setPixel_of_pixOk hi hk c, congrArg respondOk (writePixel_eq i c s), ?written, fun k hne => ?other⟩
    case written => exact (fb_writePixel s i i c).trans (if_pos ⟨rfl, hk⟩)
    case other => exact (fb_writePixel s i k c).trans (if_neg fun ⟨heq, _⟩ => hne heq)
  · exact ⟨_, exec_setPixel_of_not_pixOk hi (not_pixOk hout) c, rfl⟩

/-- Settles O27: GET_PIXEL only responds, with COLOR_OF the word or with an error. -/
theorem getPixelReadsTheColour : Obligations.GetPixelReadsTheColour := by
  refine ⟨fun w h => (decode_of_and_mask h (by decide)).trans rfl, fun i s hi h1 h64 => ?_, fun i s hi hout => ?_⟩
  · exact ⟨_, exec_getPixel_of_pixOk hi (pixOk_iff.2 ⟨h1, h64⟩), rfl⟩
  · exact ⟨_, exec_getPixel_of_not_pixOk hi (not_pixOk hout), rfl⟩

/-! ### The spiral commands are the linear ones at SPIRAL[s] (R80, R81, R82) -/

theorem pixOk_lin {s : State} (h : s.spiralOk) {p : Nat} (hp : p < 64) : pixOk (s.lin p) = true :=
  pixOk_iff.2 (lin_range h hp)

/-- Behind the check of INIT only what the body makes of the state counts. -/
theorem whenInit_congr {s : State} {body body' : State → State} (h : body s = body' s) :
    whenInit body s = whenInit body' s := by
  simp only [whenInit, h]

theorem exec_setPixelSpiral_eq {s : State} (h : s.spiralOk) {p : Nat} (hp : p < 64) (c : Colour) :
    exec (.setPixelSpiral p c) s = exec (.setPixel (s.lin p) c) s :=
  congrArg Host.Outcome.next
    (whenInit_congr ((if_pos (spiOk_iff.2 hp)).trans (if_pos (pixOk_lin h hp)).symm))

theorem exec_getPixelSpiral_eq {s : State} (h : s.spiralOk) {p : Nat} (hp : p < 64) :
    exec (.getPixelSpiral p) s = exec (.getPixel (s.lin p)) s :=
  congrArg Host.Outcome.next
    (whenInit_congr ((if_pos (spiOk_iff.2 hp)).trans (if_pos (pixOk_lin h hp)).symm))

theorem not_spiOk {p : Nat} (h : 64 ≤ p) : ¬ spiOk p = true := by
  rw [spiOk_iff]
  omega

theorem exec_setPixelSpiral_of_not_spiOk {s : State} {p : Nat} (hi : s.init = true) (hp : ¬ spiOk p = true)
    (c : Colour) : exec (.setPixelSpiral p c) s = .next (raise .indexOutOfRange s) := next_whenInit hi (if_neg hp)

/-- Settles O28: at a valid position it is SET_PIXEL at SPIRAL[s], which the bijection puts in 1..64. -/
theorem setPixelSpiralWritesOneWord : Obligations.SetPixelSpiralWritesOneWord := by
  obtain ⟨-, hwrites, -⟩ := setPixelWritesOneWord
  refine ⟨fun w h => (decode_of_and_mask h (by decide)).trans rfl, fun p c s hs hi hp => ?_, fun p c s hi hout => ?_⟩
  · obtain ⟨h1, h64⟩ := lin_range hs hp
    rw [exec_setPixelSpiral_eq hs hp]
    exact hwrites (s.lin p) c s hi h1 h64
  · exact ⟨_, exec_setPixelSpiral_of_not_spiOk hi (not_spiOk hout) c, rfl⟩

/-- Settles O29: GET_PIXEL_SPIRAL only responds, with COLOR_OF the word at SPIRAL[s] or with an error. -/
theorem getPixelSpiralReadsTheColour : Obligations.GetPixelSpiralReadsTheColour := by
  refine ⟨fun w h => (decode_of_and_mask h (by decide)).trans rfl, fun p s hi hp => ?_, fun p s hi hout => ?_⟩
  · exact ⟨_, exec_getPixelSpiral_of_spiOk hi (spiOk_iff.2 hp), rfl⟩
  · exact ⟨_, exec_getPixelSpiral_of_not_spiOk hi (not_spiOk hout), rfl⟩

/-! ### A run of spiral writes (R82) -/

/-- SET_PIXEL_SPIRAL sent to an idle block writes the pixel at SPIRAL[p] and answers OK (R80). -/
theorem sendCommand_setPixelSpiral {s : State} (hs : s.spiralOk) (hi : s.init = true) (h : s.idle) {p : Nat}
    (hp : p < 64) (c : Colour) :
    sendCommand (encode (.setPixelSpiral p c)) s = .next (respondOk (writePixel (s.lin p) c (accept s))) := by
  have hfits : argFits p = true := decide_eq_true (by omega)
  calc sendCommand (encode (.setPixelSpiral p c)) s = exec (.setPixelSpiral p c) (accept s) :=
        sendCommand_encode (i := .setPixelSpiral p c) hfits h
    _ = exec (.setPixel (s.lin p) c) (accept s) := exec_setPixelSpiral_eq (s := accept s) hs hp c
    _ = _ := exec_setPixel_of_pixOk (s := accept s) hi (pixOk_lin hs hp) c

theorem paint_append (S S' : List Nat) (c : Colour) (s : State) :
    paint (S ++ S') c s = paint S' c (paint S c s) := List.foldl_append

/-- `t` is an idle state after writes of the colour to the words `S`, each with an OK response and none with a frame. -/
structure State.PaintedFrom (S : List Nat) (c : Colour) (s t : State) : Prop where
  idle : t.idle
  init : t.init = s.init
  bright : t.bright = s.bright
  spiral : t.spiral = s.spiral
  fb : ∀ k, t.fb k = (paint S c s).fb k
  frames : t.frames = s.frames
  responses : t.responses = List.replicate S.length ⟨.ok, false, 0x000000, []⟩ ++ s.responses

namespace State.PaintedFrom

theorem refl {s : State} (h : s.idle) (c : Colour) : PaintedFrom [] c s s := ⟨h, rfl, rfl, rfl, fun _ => rfl, rfl, rfl⟩

/-- A pixel write and its OK response, of a command taken by an idle block. -/
theorem write {s : State} (h : s.idle) (k : Nat) (c : Colour) :
    PaintedFrom [k] c s (respondOk (writePixel k c (accept s))) where
  idle := by
    obtain ⟨-, hr⟩ := h
    exact ⟨rfl, by simpa using hr⟩
  init := by simp
  bright := by simp
  spiral := by simp
  fb j := (fb_writePixel (accept s) k j c).trans (fb_writePixel s k j c).symm
  frames := by simp
  responses := by simp

theorem trans {S S' : List Nat} {c : Colour} {s t u : State} (h₁ : PaintedFrom S c s t) (h₂ : PaintedFrom S' c t u) :
    PaintedFrom (S ++ S') c s u where
  idle := h₂.idle
  init := h₂.init.trans h₁.init
  bright := h₂.bright.trans h₁.bright
  spiral := h₂.spiral.trans h₁.spiral
  fb k := calc
    u.fb k = (paint S' c t).fb k := h₂.fb k
    _ = (paint S' c (paint S c s)).fb k := by rw [fb_paint, fb_paint, h₁.fb, h₁.bright, paint_bright]
    _ = (paint (S ++ S') c s).fb k := by rw [paint_append]
  frames := h₂.frames.trans h₁.frames
  responses := by
    rw [h₂.responses, h₁.responses, ← List.append_assoc, List.replicate_append_replicate, List.length_append,
      Nat.add_comm]

end State.PaintedFrom

/-- The spiral writes to the positions `ps`, sent one after another, paint the words at those positions. -/
theorem sendCommands_setPixelSpiral (c : Colour) (ps : List Nat) (hps : ∀ p ∈ ps, p < 64) :
    ∀ s : State, s.spiralOk → s.init = true → s.idle →
      ∃ t, sendCommands (ps.map fun p => encode (.setPixelSpiral p c)) s = .next t ∧
        State.PaintedFrom (ps.map s.lin) c s t := by
  induction ps with
  | nil => exact fun s _ _ hidle => ⟨s, rfl, .refl hidle c⟩
  | cons p ps ih =>
    intro s hs hi hidle
    obtain ⟨hp, hps⟩ := List.forall_mem_cons.1 hps
    have hone := State.PaintedFrom.write hidle (s.lin p) c
    obtain ⟨t, hrun, hrest⟩ := ih hps _ (by rwa [State.spiralOk, hone.spiral]) (hone.init.trans hi) hone.idle
    rw [funext (lin_congr hone.spiral)] at hrest
    exact ⟨t, (sendCommands_cons_of_next (sendCommand_setPixelSpiral hs hi hidle hp c) _).trans hrun,
      hone.trans hrest⟩

/-- Settles O30: each spiral command is the linear one, and the positions 0..63 reach every pixel. -/
theorem spiralCommandsAreLinearOnes : Obligations.SpiralCommandsAreLinearOnes := by
  refine ⟨fun p c s hs hp => ⟨exec_setPixelSpiral_eq hs hp c, exec_getPixelSpiral_eq hs hp⟩, fun c s hs hi hidle => ?_⟩
  obtain ⟨t, hrun, hpainted⟩ :=
    sendCommands_setPixelSpiral c (List.range 64) (fun _ => List.mem_range.1) s hs hi hidle
  refine ⟨t, hrun, fun k h1 h64 => ?_, hpainted.frames, by simpa using hpainted.responses⟩
  obtain ⟨p, hp, hk⟩ := exists_lin_eq hs h1 h64
  have hmem : k ∈ (List.range 64).map s.lin := List.mem_map.2 ⟨p, List.mem_range.2 hp, hk⟩
  rw [hpainted.fb, fb_paint, if_pos ⟨hmem, pixOk_iff.2 ⟨h1, h64⟩⟩]
  rfl

/-! ### The bus (R83, R99) -/

/-- Of the six effects only a transmitted painting touches the bus port. -/
theorem Effect.bus_eq {i : Instr} {s t : State} (he : Effect i s t) (ht : transmitter i = false) :
    t.frames = s.frames ∧ t.inFlight = s.inFlight ∧ t.busIn = s.busIn := by
  cases he with
  | error | construction | read | stream => exact ⟨rfl, rfl, rfl⟩
  | write _ k c => exact ⟨writePixel_frames s k c, writePixel_inFlight s k c, writePixel_busIn s k c⟩
  | pattern _ htrue => exact absurd (htrue.symm.trans ht) nofun

/-- TRANSMIT after writes to pixel words, with the sink's answer there, is the writes and one whole transmission. -/
theorem sentAndAnswered_transmit {s u : State} {a : BusAnswer} {rest : List BusAnswer}
    (hu : u = { s with pixels := u.pixels }) (hb : s.busIn = a :: rest) : sentAndAnswered s (transmit u) a rest := by
  obtain ⟨pixels, rfl⟩ : ∃ pixels, u = { s with pixels := pixels } := ⟨_, hu⟩
  rw [transmit_answered { s with pixels := pixels } a rest hb]
  cases a <;> rfl

/-- Settles O35: no other effect touches the bus, and one of the seven is its writes and one transmission. -/
theorem onlyRenderAndPatternsTransmit : Obligations.OnlyRenderAndPatternsTransmit :=
  ⟨fun _ _ _ ht hexec => (Effect.of_exec hexec).bus_eq ht,
    fun i s _ _ ht ho hi hb => ⟨_, exec_transmitter ht ho hi, sentAndAnswered_transmit (paintedBy_eq i s) hb⟩⟩

end Sys2Proof.Machine
end

section
/-! PROOFS. The serializer (spec/42_serializer.md): the frame of a constructed buffer, and the two commands that give it
away, SERIALIZE to the host and RENDER to the sink. -/

namespace Sys2Proof.Machine

/-! ### The frame of a constructed buffer (R74, R89) -/

/-- The brightness byte as R89 writes it. -/
theorem marker_append_brightness (b : Brightness) : (0b111#3 ++ b : Byte) = 0xE0#8 ||| b.setWidth 8 := by
  revert b
  decide

/-- The word of a pixel of a constructed buffer is ENC of its colour and BRIGHT (R25). -/
theorem fb_eq_enc {s : State} (h : s.pixelsMarked) (hi : s.init = true) {k : Nat} (h1 : 1 ≤ k) (h64 : k ≤ 64) :
    s.fb k = enc (colorOf (s.fb k)) s.bright := by
  obtain ⟨hmark, hbright⟩ := h hi k h1 h64
  exact word_eq_enc _ _ hmark hbright

/-- Settles O4: the markers are those of the frame's shape, and a pixel's four bytes are those of ENC(colour, BRIGHT). -/
theorem frameOfAConstructedBuffer : Obligations.FrameOfAConstructedBuffer := by
  intro s h hi
  obtain ⟨hlen, hstart, hlast, -⟩ := frameShape_ser h hi
  refine ⟨hlen, fun m hm => hstart m (by omega), fun m hm => hlast m (by omega), fun i h1 h64 => ?_⟩
  obtain ⟨-, hser⟩ := serializerIsLittleEndian s
  have hbyte (m : Nat) (hm : m ≤ 3) :
      s.ser[4 * i + m]? = some ((enc (colorOf (s.fb i)) s.bright).extractLsb' (8 * m) 8) := by
    rw [hser i m (by omega) hm, ← fb_eq_enc h hi h1 h64]
  have hcolour (start : Nat) := extractLsb'_enc (colorOf (s.fb i)) s.bright start 8
  refine ⟨?brightness, ?blue, ?green, ?red⟩
  case brightness =>
    calc s.ser[4 * i]? = some ((enc (colorOf (s.fb i)) s.bright).extractLsb' 0 8) := hbyte 0 (by decide)
      _ = some (0xE0#8 ||| s.bright.setWidth 8) := by rw [lowByte_enc, marker_append_brightness]
  case blue => exact (hbyte 1 (by decide)).trans (congrArg some (hcolour 0))
  case green => exact (hbyte 2 (by decide)).trans (congrArg some (hcolour 8))
  case red => exact (hbyte 3 (by decide)).trans (congrArg some (hcolour 16))

/-! ### SERIALIZE and RENDER (R87, R88) -/

/-- Settles O32: SERIALIZE only responds, and its stream is SER. -/
theorem serializeReturnsTheFrame : Obligations.SerializeReturnsTheFrame := by
  refine ⟨fun w h => (decode_of_and_mask h (by decide)).trans rfl, fun s hi => ?_⟩
  exact ⟨_, s.ser, exec_serialize hi, rfl, serializerIsLittleEndian s⟩

/-- Settles O34: RENDER is one transmission, of a frame that no write comes before. -/
theorem renderTransmitsTheFrame : Obligations.RenderTransmitsTheFrame := by
  refine ⟨fun w h => (decode_of_and_mask h (by decide)).trans rfl, fun s a rest hi hb => ?_⟩
  obtain ⟨-, -, hpixels, -⟩ := transmit_frame s
  exact ⟨transmit s, exec_transmitter (i := .render) rfl trivial hi, sentAndAnswered_transmit rfl hb, hpixels⟩

end Sys2Proof.Machine
end

section
/-! PROOFS. The pattern indexer (spec/43_pattern_indexer.md): the index sets meet their predicates and have the
properties of R106, and each pattern command paints its set and transmits once. -/

namespace Sys2Proof.Machine

/-! ### The spiral index sets (R91, R93, R94) -/

/-- Translating the positions a..b-1. -/
theorem mem_map_lin {s : State} {a b k : Nat} :
    k ∈ (strideRange a b 1).map s.lin ↔ ∃ p, a ≤ p ∧ p < b ∧ s.lin p = k := by
  simp only [List.mem_map, mem_strideRange_one, and_assoc]

theorem mem_circleSet {s : State} {r k : Nat} :
    k ∈ circleSet s r ↔ ∃ p, p < circleCount.getD r 0 ∧ s.lin p = k := by
  simp only [circleSet, mem_map_lin, Nat.zero_le, true_and]

theorem mem_ringSet {s : State} {r k : Nat} :
    k ∈ ringSet s r ↔ ∃ p, ringBound.getD r 0 ≤ p ∧ p < ringBound.getD (r + 1) 0 ∧ s.lin p = k :=
  mem_map_lin

/-- Settles O7: both loops have stride 1 and translate the positions they count. -/
theorem spiralSetsMeetTheirPredicates : Obligations.SpiralSetsMeetTheirPredicates :=
  fun _ _ _ _ => ⟨mem_circleSet, mem_ringSet⟩

/-! ### The side loops (R95 to R98) -/

/-- A strided loop whose groups stay within a row of eight visits the columns `off - 1` to `off + groups - 2` of every
row of 1..64. -/
theorem mem_stridedSet_iff_column {groups off k : Nat} (h1 : 1 ≤ off) (h9 : groups + off ≤ 9) :
    k ∈ stridedSet groups off ↔
      1 ≤ k ∧ k ≤ 64 ∧ off ≤ (k - 1) % 8 + 1 ∧ (k - 1) % 8 + 1 < off + groups := by
  rw [mem_stridedSet]
  constructor
  · rintro ⟨i, n, hi, hn, rfl⟩
    omega
  · rintro ⟨hk1, hk64, hlo, hhi⟩
    exact ⟨(k - 1) % 8 + 1 - off, (k - 1) / 8, by omega, by omega, by omega⟩

/-- Settles O8: a contiguous loop visits a block of indices, and a strided one columns of the rows of eight. -/
theorem sideLoopsMeetTheirPredicates : Obligations.SideLoopsMeetTheirPredicates := by
  have block {off count k : Nat} := mem_blockSet (off := off) (count := count) (k := k)
  have strided {groups off k : Nat} := mem_stridedSet_iff_column (groups := groups) (off := off) (k := k)
  refine fun k => ⟨block.trans ?_, block.trans ?_, (strided ?_ ?_).trans ?_, (strided ?_ ?_).trans ?_,
    block.trans ?_, block.trans ?_, (strided ?_ ?_).trans ?_, (strided ?_ ?_).trans ?_⟩
  all_goals omega

/-! ### Sizes, partitions and disjointness of the spiral sets (R106) -/

theorem length_strideRange_one (a b : Nat) : (strideRange a b 1).length = b - a := by simp [strideRange]

theorem nodup_strideRange_one (a b : Nat) : (strideRange a b 1).Nodup :=
  List.nodup_range.map fun m n h => by simpa using h

/-- A bijective table takes no two positions to one index. -/
theorem nodup_map_lin {s : State} (h : s.spiralOk) (a : Nat) {b : Nat} (hb : b ≤ 64) :
    ((strideRange a b 1).map s.lin).Nodup := by
  have hlt : ∀ p ∈ strideRange a b 1, p < 64 := fun p hp => (mem_strideRange_one.1 hp).2.trans_le hb
  exact (nodup_strideRange_one a b).map_on fun p hp q hq he => lin_injective h (hlt p hp) (hlt q hq) he

theorem map_lin_range {s : State} (h : s.spiralOk) {a b k : Nat} (hb : b ≤ 64)
    (hk : k ∈ (strideRange a b 1).map s.lin) : 1 ≤ k ∧ k ≤ 64 := by
  obtain ⟨p, -, hp, rfl⟩ := mem_map_lin.1 hk
  exact lin_range h (hp.trans_le hb)

/-- "For r in 0..3, CT[r] = RB[r+1]" (R91). -/
theorem circleCount_eq_ringBound : ∀ r ≤ 3, circleCount.getD r 0 = ringBound.getD (r + 1) 0 := by decide

theorem ringBound_mono : ∀ r ≤ 4, ∀ q ≤ r, ringBound.getD q 0 ≤ ringBound.getD r 0 := by decide

theorem ringBound_le (r : Nat) (hr : r ≤ 3) : ringBound.getD (r + 1) 0 ≤ 64 :=
  ringBound_mono 4 le_rfl (r + 1) (by omega)

theorem circleCount_le (r : Nat) (hr : r ≤ 3) : circleCount.getD r 0 ≤ 64 :=
  (circleCount_eq_ringBound r hr).trans_le (ringBound_le r hr)

/-- A position below a ring's upper bound is in that ring or in one within it. -/
theorem exists_ring_of_lt {r p : Nat} (h : p < ringBound.getD (r + 1) 0) :
    ∃ q ≤ r, ringBound.getD q 0 ≤ p ∧ p < ringBound.getD (q + 1) 0 := by
  induction r with
  | zero => exact ⟨0, le_rfl, Nat.zero_le p, h⟩
  | succ r ih =>
    by_cases hin : p < ringBound.getD (r + 1) 0
    · obtain ⟨q, hq, hp⟩ := ih hin
      exact ⟨q, by omega, hp⟩
    · exact ⟨r + 1, le_rfl, Nat.le_of_not_lt hin, h⟩

/-- A circle is the union of the rings up to its radius, as the bounds never decrease. -/
theorem mem_circleSet_iff_exists_ringSet {s : State} {r k : Nat} (hr : r ≤ 3) :
    k ∈ circleSet s r ↔ ∃ q, q ≤ r ∧ k ∈ ringSet s q := by
  simp only [mem_circleSet, mem_ringSet, circleCount_eq_ringBound r hr]
  constructor
  · rintro ⟨p, hp, rfl⟩
    obtain ⟨q, hq, hlo, hhi⟩ := exists_ring_of_lt hp
    exact ⟨q, hq, p, hlo, hhi, rfl⟩
  · rintro ⟨q, hq, p, -, hhi, rfl⟩
    exact ⟨p, hhi.trans_le (ringBound_mono (r + 1) (by omega) (q + 1) (by omega)), rfl⟩

/-- A position is in one ring only: the inner ring of two ends before the outer one begins. -/
theorem ring_unique {q r p : Nat} (hq : q ≤ 3) (hr : r ≤ 3)
    (hpq : ringBound.getD q 0 ≤ p ∧ p < ringBound.getD (q + 1) 0)
    (hpr : ringBound.getD r 0 ≤ p ∧ p < ringBound.getD (r + 1) 0) : q = r := by
  rcases Nat.lt_trichotomy q r with hlt | heq | hgt
  · have := ringBound_mono r (by omega) (q + 1) hlt
    omega
  · exact heq
  · have := ringBound_mono q (by omega) (r + 1) hgt
    omega

theorem ringSet_disjoint {s : State} (h : s.spiralOk) {q r k : Nat} (hq : q ≤ 3) (hr : r ≤ 3) (hne : q ≠ r)
    (hk : k ∈ ringSet s q) : k ∉ ringSet s r := by
  obtain ⟨p, hlo, hhi, rfl⟩ := mem_ringSet.1 hk
  intro hk'
  obtain ⟨p', hlo', hhi', he⟩ := mem_ringSet.1 hk'
  obtain rfl : p' = p :=
    lin_injective h (hhi'.trans_le (ringBound_le r hr)) (hhi.trans_le (ringBound_le q hq)) he
  exact hne (ring_unique hq hr ⟨hlo, hhi⟩ ⟨hlo', hhi'⟩)

theorem exists_mem_ringSet {s : State} (h : s.spiralOk) {k : Nat} (h1 : 1 ≤ k) (h64 : k ≤ 64) :
    ∃ r, r ≤ 3 ∧ k ∈ ringSet s r := by
  obtain ⟨p, hp, hk⟩ := exists_lin_eq h h1 h64
  exact (mem_circleSet_iff_exists_ringSet le_rfl).1 (mem_circleSet.2 ⟨p, hp, hk⟩)

/-! ### Sizes and inclusions of the side sets (R106) -/

/-- The loops of the sides are closed lists. -/
theorem sideSets_size (side : Side) :
    (halfSet side).Nodup ∧ (halfSet side).length = 32 ∧ (quarterSet side).Nodup ∧ (quarterSet side).length = 24 := by
  cases side <;> decide

theorem quarterSet_subset_halfSet (side : Side) {k : Nat} (hk : k ∈ quarterSet side) : k ∈ halfSet side := by
  obtain ⟨hl, hr, ht, hb, ql, qr, qt, qb⟩ := sideLoopsMeetTheirPredicates k
  cases side with
  | left => rw [ql] at hk; rw [hl]; omega
  | right => rw [qr] at hk; rw [hr]; omega
  | top => rw [qt] at hk; rw [ht]; omega
  | bottom => rw [qb] at hk; rw [hb]; omega

/-- Settles O9: the spiral sets by the bijection and the order of the ring bounds, the side sets by their predicates. -/
theorem indexSetProperties : Obligations.IndexSetProperties := by
  have sides := sideLoopsMeetTheirPredicates
  refine ⟨fun s h => ⟨fun r hr => ⟨?circleNodup, ?circleSize, ?ringNodup, ?ringSize, fun k hk => ?circleRange,
      fun k hk => ?ringRange, fun k => mem_circleSet_iff_exists_ringSet hr⟩,
      fun q r hq hr hne k hk => ringSet_disjoint h hq hr hne hk, fun k => exists_mem_ringSet h⟩,
    fun k => ?leftRight, fun k => ?notLeftRight, fun k => ?topBottom, fun k => ?notTopBottom, fun side => ?sizes,
    fun k => ?quartersLeftRight, fun k => ?quartersTopBottom⟩
  case circleNodup => exact nodup_map_lin h 0 (circleCount_le r hr)
  case circleSize => exact (List.length_map _).trans (length_strideRange_one 0 _)
  case ringNodup => exact nodup_map_lin h _ (ringBound_le r hr)
  case ringSize => exact (List.length_map _).trans (length_strideRange_one _ _)
  case circleRange => exact map_lin_range h (circleCount_le r hr) hk
  case ringRange => exact map_lin_range h (ringBound_le r hr) hk
  case sizes =>
    obtain ⟨hn, hlen, qn, qlen⟩ := sideSets_size side
    exact ⟨hn, hlen, qn, qlen, fun k => quarterSet_subset_halfSet side⟩
  all_goals
    obtain ⟨hl, hr, ht, hb, ql, qr, qt, qb⟩ := sides k
    simp only [hl, hr, ht, hb, ql, qr, qt, qb]
    omega

/-! ### The pattern commands (R99, R107) -/

/-- A pattern command with a valid operand and the sink's answer there paints the pixel words of its index set `S`, keeps
every other word, and is one whole transmission. -/
theorem exec_pattern {i : Instr} {s : State} {S : List Nat} {c : Colour} {a : BusAnswer} {rest : List BusAnswer}
    (ht : transmitter i = true) (ho : operandValid i) (hS : paintedBy i s = paint S c s) (hi : s.init = true)
    (hb : s.busIn = a :: rest) :
    ∃ t, exec i s = .next t ∧ sentAndAnswered s t a rest ∧
      ∀ k, t.fb k = if k ∈ S ∧ pixOk k = true then enc c s.bright else s.fb k := by
  refine ⟨_, exec_transmitter ht ho hi, sentAndAnswered_transmit (paintedBy_eq i s) hb, fun k => ?_⟩
  obtain ⟨-, -, hpixels, -⟩ := transmit_frame (paintedBy i s)
  rw [fb_congr hpixels, hS, fb_paint]

/-- Settles O38: the index set of FILL is all pixels. -/
theorem fillPaintsEveryPixel : Obligations.FillPaintsEveryPixel := by
  refine ⟨fun w h => (decode_of_and_mask h (by decide)).trans rfl, fun c s a rest hi hb => ?_⟩
  obtain ⟨t, hexec, hsent, hfb⟩ := exec_pattern (i := .fill c) rfl trivial rfl hi hb
  refine ⟨t, hexec, hsent, fun k => (hfb k).trans (if_congr ?_ rfl rfl)⟩
  rw [mem_allSet, and_self, pixOk_iff]

/-- Settles O39: CLEAR is FILL of colour 0 by definition. -/
theorem clearPaintsEveryPixelBlack : Obligations.ClearPaintsEveryPixelBlack := by
  obtain ⟨-, hfill⟩ := fillPaintsEveryPixel
  exact ⟨fun w h => (decode_of_and_mask h (by decide)).trans rfl, fun _ => rfl, fun s => hfill 0x000000 s⟩

/-! ### The spiral patterns (R102, R103) -/

theorem not_radiusOk {r : Nat} (h : 4 ≤ r) : ¬ radiusOk r = true := by
  rw [radiusOk, decide_eq_true_iff]
  omega

theorem exec_filledCircle_of_not_radiusOk {s : State} {r : Nat} (hi : s.init = true) (hr : ¬ radiusOk r = true)
    (c : Colour) : exec (.filledCircle r c) s = .next (raise .invalidRadius s) := next_whenInit hi (if_neg hr)

theorem exec_ring_of_not_radiusOk {s : State} {r : Nat} (hi : s.init = true) (hr : ¬ radiusOk r = true)
    (c : Colour) : exec (.ring r c) s = .next (raise .invalidRadius s) := next_whenInit hi (if_neg hr)

/-- A pattern over the positions lo..hi-1 of a bijective table paints the words at their translations and no other. -/
theorem exec_spiralPattern {i : Instr} {s : State} {lo hi : Nat} {c : Colour} {a : BusAnswer} {rest : List BusAnswer}
    (ht : transmitter i = true) (ho : operandValid i)
    (hS : paintedBy i s = paint ((strideRange lo hi 1).map s.lin) c s) (hle : hi ≤ 64) (hs : s.spiralOk)
    (hinit : s.init = true) (hb : s.busIn = a :: rest) :
    ∃ t, exec i s = .next t ∧ sentAndAnswered s t a rest ∧
      (∀ p, lo ≤ p → p < hi → t.fb (s.lin p) = enc c s.bright) ∧
      ∀ k, (∀ p, lo ≤ p → p < hi → s.lin p ≠ k) → t.fb k = s.fb k := by
  obtain ⟨t, hexec, hsent, hfb⟩ := exec_pattern ht ho hS hinit hb
  refine ⟨t, hexec, hsent, fun p hlo hhi => ?painted, fun k hk => ?kept⟩
  case painted =>
    exact (hfb _).trans (if_pos ⟨mem_map_lin.2 ⟨p, hlo, hhi, rfl⟩, pixOk_lin hs (hhi.trans_le hle)⟩)
  case kept =>
    refine (hfb k).trans (if_neg fun ⟨hmem, _⟩ => ?_)
    obtain ⟨p, hlo, hhi, he⟩ := mem_map_lin.1 hmem
    exact hk p hlo hhi he

/-- Settles O40: CIRCLE(r) translates the positions 0..CT[r]-1. -/
theorem filledCirclePaintsASpiralPrefix : Obligations.FilledCirclePaintsASpiralPrefix := by
  refine ⟨fun w h => (decode_of_and_mask h (by decide)).trans rfl, fun r c s a rest hs hi hr hb => ?_,
    fun r c s hi hr => ⟨_, exec_filledCircle_of_not_radiusOk hi (not_radiusOk hr) c, rfl⟩⟩
  obtain ⟨t, hexec, hsent, hpainted, hkept⟩ :=
    exec_spiralPattern (i := .filledCircle r c) rfl hr rfl (circleCount_le r hr) hs hi hb
  exact ⟨t, hexec, hsent, fun p => hpainted p p.zero_le, fun k hk => hkept k fun p _ => hk p⟩

/-- Settles O41: RING(r) translates the positions RB[r]..RB[r+1]-1. -/
theorem ringPaintsOneSpiralRing : Obligations.RingPaintsOneSpiralRing := by
  refine ⟨fun w h => (decode_of_and_mask h (by decide)).trans rfl, fun r c s a rest hs hi hr hb => ?_,
    fun r c s hi hr => ⟨_, exec_ring_of_not_radiusOk hi (not_radiusOk hr) c, rfl⟩⟩
  exact exec_spiralPattern (i := .ring r c) rfl hr rfl (ringBound_le r hr) hs hi hb

/-! ### The side patterns (R62, R104, R105) -/

theorem exists_sideOf {sd : Nat} (h : sd ≤ 3) : ∃ side, sideOf sd = some side := by
  refine Option.ne_none_iff_exists'.1 fun hnone => ?_
  have := sideOf_eq_none_iff.1 hnone
  omega

/-- HALF of the side that an operand stands for, by its predicate (R62, R95, R96). -/
theorem mem_halfSet_of_sideOf {sd : Nat} {side : Side} (h : sideOf sd = some side) (k : Nat) :
    k ∈ halfSet side ↔ 1 ≤ k ∧ k ≤ 64 ∧ ((sd = 0 ∧ k ≤ 32) ∨ (sd = 1 ∧ 33 ≤ k) ∨ (sd = 2 ∧ (k - 1) % 8 ≤ 3) ∨
      (sd = 3 ∧ 4 ≤ (k - 1) % 8)) := by
  obtain ⟨hl, hr, ht, hb, -⟩ := sideLoopsMeetTheirPredicates k
  match sd with
  | 0 => cases h; rw [hl]; omega
  | 1 => cases h; rw [hr]; omega
  | 2 => cases h; rw [ht]; omega
  | 3 => cases h; rw [hb]; omega
  | n + 4 => cases h

/-- Q24 of the side that an operand stands for, by its predicate (R62, R97, R98). -/
theorem mem_quarterSet_of_sideOf {sd : Nat} {side : Side} (h : sideOf sd = some side) (k : Nat) :
    k ∈ quarterSet side ↔ 1 ≤ k ∧ k ≤ 64 ∧ ((sd = 0 ∧ k ≤ 24) ∨ (sd = 1 ∧ 41 ≤ k) ∨ (sd = 2 ∧ (k - 1) % 8 ≤ 2) ∨
      (sd = 3 ∧ 5 ≤ (k - 1) % 8)) := by
  obtain ⟨-, -, -, -, ql, qr, qt, qb⟩ := sideLoopsMeetTheirPredicates k
  match sd with
  | 0 => cases h; rw [ql]; omega
  | 1 => cases h; rw [qr]; omega
  | 2 => cases h; rw [qt]; omega
  | 3 => cases h; rw [qb]; omega
  | n + 4 => cases h

/-- A set whose predicate says 1..64 needs no other check of its indices. -/
theorem mem_and_pixOk_iff {S : List Nat} {k : Nat} {P : Prop} (h : k ∈ S ↔ 1 ≤ k ∧ k ≤ 64 ∧ P) :
    k ∈ S ∧ pixOk k = true ↔ 1 ≤ k ∧ k ≤ 64 ∧ P := by
  rw [h, pixOk_iff]
  tauto

theorem exec_fillHalf_of_no_side {s : State} {sd : Nat} (hi : s.init = true) (h : sideOf sd = none) (c : Colour) :
    exec (.fillHalf sd c) s = .next (raise .invalidSide s) := next_whenInit hi (by rw [h])

theorem exec_fillQuarter24_of_no_side {s : State} {sd : Nat} (hi : s.init = true) (h : sideOf sd = none)
    (c : Colour) : exec (.fillQuarter24 sd c) s = .next (raise .invalidSide s) := next_whenInit hi (by rw [h])

/-- Settles O42: the index set is HALF of the operand's side. -/
theorem fillHalfPaintsOneHalf : Obligations.FillHalfPaintsOneHalf := by
  refine ⟨fun w h => (decode_of_and_mask h (by decide)).trans rfl, fun sd c s a rest hi hsd hb => ?_,
    fun sd c s hi hsd => ⟨_, exec_fillHalf_of_no_side hi (sideOf_eq_none_iff.2 hsd) c, rfl⟩⟩
  obtain ⟨side, hside⟩ := exists_sideOf hsd
  have hS : paintedBy (.fillHalf sd c) s = paint (halfSet side) c s := by rw [paintedBy, hside, Option.elim_some]
  obtain ⟨t, hexec, hsent, hfb⟩ := exec_pattern (i := .fillHalf sd c) rfl hsd hS hi hb
  exact ⟨t, hexec, hsent, fun k =>
    (hfb k).trans (if_congr (mem_and_pixOk_iff (mem_halfSet_of_sideOf hside k)) rfl rfl)⟩

/-- Settles O43: the index set is Q24 of the operand's side. -/
theorem fillQuarterPaints24Pixels : Obligations.FillQuarterPaints24Pixels := by
  refine ⟨fun w h => (decode_of_and_mask h (by decide)).trans rfl, fun sd c s a rest hi hsd hb => ?_,
    fun sd c s hi hsd => ⟨_, exec_fillQuarter24_of_no_side hi (sideOf_eq_none_iff.2 hsd) c, rfl⟩⟩
  obtain ⟨side, hside⟩ := exists_sideOf hsd
  have hS : paintedBy (.fillQuarter24 sd c) s = paint (quarterSet side) c s := by
    rw [paintedBy, hside, Option.elim_some]
  obtain ⟨t, hexec, hsent, hfb⟩ := exec_pattern (i := .fillQuarter24 sd c) rfl hsd hS hi hb
  exact ⟨t, hexec, hsent, fun k =>
    (hfb k).trans (if_congr (mem_and_pixOk_iff (mem_quarterSet_of_sideOf hside k)) rfl rfl)⟩

end Sys2Proof.Machine
end

section
/-! PROOFS. Errors (spec/60_exceptions.md): which error a word reports, what an error and an IOERR answer leave
unchanged, the wait for a silent sink, and that nothing stops the block but a reset in flight. -/

namespace Sys2Proof

/-! ### The opcodes by number (R61, R63) -/

theorem toNat_mem_reserved_iff {op : BitVec 4} : op.toNat ∈ [0, 14, 15] ↔ op ∈ [0x0#4, 0xE#4, 0xF#4] := by
  revert op
  decide

/-- With RSV = 0 the opcode map decides by the opcode's number. -/
theorem decode_of_opcode {w : Command} {n : Nat} (hrsv : rsvField w = 0) (hop : (opField w).toNat = n) :
    decode w = decodeOp (BitVec.ofNat 4 n) (argField w) (colorField w) := by
  rw [decode_of_rsv_zero hrsv, ← hop, BitVec.ofNat_toNat, BitVec.setWidth_eq]

/-- INIT is opcode 1 only. -/
theorem toNat_opField_of_decode_init {w : Command} {b8 : Nat} (hd : decode w = .ok (.init b8)) :
    (opField w).toNat = 1 := by
  obtain ⟨-, hmap⟩ := decode_eq_ok_iff.1 hd
  obtain ⟨hop, -⟩ := fields_of_decodeOp hmap
  rw [← hop]
  rfl

end Sys2Proof

namespace Sys2Proof.Machine

/-! ### An illegal word (R110) -/

theorem step_of_illegal {s : State} {w : Command} {e : Illegal} (hr : s.rstIn = false) (hb : s.busy = false)
    (hc : s.cmdIn = some w) (hd : decode w = .error e) : step s = .next (raise .illegalCommand (accept s)) := by
  simp [step, hr, hb, hc, hd]

theorem sendCommand_of_reserved {w : Command} {s : State} (h : s.idle)
    (hw : opField w ∈ [0x0#4, 0xE#4, 0xF#4] ∨ rsvField w ≠ 0b0000#4) :
    sendCommand w s = .next (raise .illegalCommand (accept s)) := by
  obtain ⟨hb, hr⟩ := h
  obtain ⟨e, he⟩ := decode_of_reserved hw
  exact step_of_illegal (s := { s with cmdIn := some w }) hr hb rfl he

/-- Settles O17: the word is taken and the error raised, with INIT not looked at. -/
theorem illegalCommandIsAnsweredFirst : Obligations.IllegalCommandIsAnsweredFirst :=
  fun _ _ hidle hw => ⟨_, sendCommand_of_reserved hidle hw, rfl⟩

/-! ### What stops the block (R108, R121, R131) -/

theorem step_of_reset {s : State} (hr : s.rstIn = true) (hb : s.busy = false) : step s = .next (resetEvent s) := by
  simp [step, hr, hb]

theorem step_of_reset_in_flight {s : State} (hr : s.rstIn = true) (hb : s.busy = true) :
    step s = .refused .resetWhileBusy := by
  simp [step, hr, hb]

/-- Settles O20, by the six kinds of step: reset with and without a command in flight, waiting, idling, an illegal word,
and a command, which always answers a next state. -/
theorem onlyResetInFlightStops : Obligations.OnlyResetInFlightStops := by
  intro s
  rcases hr : s.rstIn with _ | _ <;> rcases hb : s.busy with _ | _
  · rcases hc : s.cmdIn with _ | w
    · exact .inl ⟨_, step_of_nothing_offered hr hb hc⟩
    rcases hd : decode w with e | i
    · exact .inl ⟨_, step_of_illegal hr hb hc hd⟩
    · obtain ⟨t, hexec, -⟩ := exec_cases i (accept s)
      exact .inl ⟨t, (step_of_decoded hr hb hc hd).trans hexec⟩
  · exact .inl ⟨_, step_of_busy hr hb⟩
  · exact .inl ⟨_, step_of_reset hr hb⟩
  · exact .inr ⟨rfl, rfl, step_of_reset_in_flight hr hb⟩

/-! ### Before the first INIT (R111) -/

theorem exec_of_not_init {i : Instr} {s : State} (hs : s.init = false) (hi : ∀ b8, i ≠ .init b8) :
    exec i s = .next (raise .notInitialized s) := by
  cases i with
  | init b8 => exact absurd rfl (hi b8)
  | setPixel | getPixel | setPixelSpiral | getPixelSpiral | serialize | render | fill | clear | filledCircle | ring
  | fillHalf | fillQuarter24 => exact congrArg Host.Outcome.next (whenInit_of_not_init hs _)

/-- Settles O21: the check of INIT comes before the body of every command but INIT. -/
theorem commandsBeforeInitAreRefused : Obligations.CommandsBeforeInitAreRefused :=
  fun _ _ hs hi => ⟨_, exec_of_not_init hs hi, rfl⟩

/-! ### The order of the errors (R119) -/

/-- A word whose command raises an error is answered that error, and nothing else changes (R116, R117). -/
theorem sendCommand_reports {w : Command} {s : State} {i : Instr} {e : Status} (h : s.idle) (hd : decode w = .ok i)
    (hx : exec i (accept s) = .next (raise e (accept s))) :
    ∃ t, sendCommand w s = .next t ∧ onlyAnswered { s with cmdIn := none } t ⟨e, false, 0x000000, []⟩ := by
  obtain ⟨hb, hr⟩ := h
  exact ⟨_, (step_of_decoded (s := { s with cmdIn := some w }) hr hb rfl hd).trans hx, rfl⟩

/-- Settles O22: an illegal word is not decoded, the check of INIT comes before a command's own checks, and each of
those raises the one error of its operand. -/
theorem errorsComeInPriorityOrder : Obligations.ErrorsComeInPriorityOrder := by
  intro w s hidle op arg reports
  refine ⟨fun hill => ?illegal, fun hrsv hop =>
    ⟨fun hop1 hs => ?notInit, fun hs => ⟨?linear, ?spiral, ?radius, ?side⟩⟩⟩
  case illegal => exact illegalCommandIsAnsweredFirst s w hidle (hill.imp_left toNat_mem_reserved_iff.1)
  case notInit =>
    have hlegal : ¬ (opField w ∈ [0x0#4, 0xE#4, 0xF#4] ∨ rsvField w ≠ 0b0000#4) :=
      not_or.2 ⟨mt toNat_mem_reserved_iff.2 hop, not_not.2 hrsv⟩
    obtain ⟨i, hd⟩ := decode_of_not_reserved hlegal
    refine sendCommand_reports hidle hd (exec_of_not_init (s := accept s) hs fun b8 hi => hop1 ?_)
    exact toNat_opField_of_decode_init (hi ▸ hd)
  all_goals
    have hinit : (accept s).init = true := hs
    intro hmem hout
    simp only [List.mem_cons, List.not_mem_nil, or_false] at hmem
    obtain hn | hn := hmem
    all_goals refine sendCommand_reports hidle (decode_of_opcode hrsv hn) ?_
  case linear.inl => exact exec_setPixel_of_not_pixOk hinit (not_pixOk hout) _
  case linear.inr => exact exec_getPixel_of_not_pixOk hinit (not_pixOk hout)
  case spiral.inl => exact exec_setPixelSpiral_of_not_spiOk hinit (not_spiOk hout) _
  case spiral.inr => exact exec_getPixelSpiral_of_not_spiOk hinit (not_spiOk hout)
  case radius.inl => exact exec_filledCircle_of_not_radiusOk hinit (not_radiusOk hout) _
  case radius.inr => exact exec_ring_of_not_radiusOk hinit (not_radiusOk hout) _
  case side.inl => exact exec_fillHalf_of_no_side hinit (sideOf_eq_none_iff.2 hout) _
  case side.inr => exact exec_fillQuarter24_of_no_side hinit (sideOf_eq_none_iff.2 hout) _

/-! ### An IOERR answer (R115, R117, R138) -/

/-- A transmitting command whose sink has the answer `a` ready is its writes, which no answer changes, and then one
frame and one response. -/
theorem exec_transmitter_answered {i : Instr} {s : State} (ht : transmitter i = true) (ho : operandValid i)
    (hi : s.init = true) (a : BusAnswer) (rest : List BusAnswer) :
    exec i { s with busIn := a :: rest } = .next
      { paintedBy i s with
        busy := false, inFlight := none, busIn := rest, frames := ⟨(paintedBy i s).ser, a⟩ :: s.frames
        responses := ⟨answerStatus a, false, 0, []⟩ :: s.responses } := by
  have hframes : (paintedBy i s).frames = s.frames := by rw [paintedBy_eq]
  have hresponses : (paintedBy i s).responses = s.responses := by rw [paintedBy_eq]
  calc exec i (s.withBusIn (a :: rest))
    _ = .next (transmit ((paintedBy i s).withBusIn (a :: rest))) := by
      rw [exec_transmitter ht ho (s := s.withBusIn (a :: rest)) hi, paintedBy_withBusIn]
    _ = _ := by
      rw [transmit_answered _ a rest rfl, ← hframes, ← hresponses]
      rfl

/-- Settles O24: of the state after an answered transmission only the frame's answer and the STATUS depend on the
answer. -/
theorem ioErrorKeepsTheWrites : Obligations.IoErrorKeepsTheWrites :=
  fun _ _ rest ht ho hi =>
    ⟨_, exec_transmitter_answered ht ho hi .ok rest, rfl, rfl, exec_transmitter_answered ht ho hi .ioErr rest⟩

/-! ### A silent sink (R125) -/

/-- A busy block stays as it is while the sink has no answer ready. -/
theorem step_of_silent_sink {s : State} (hr : s.rstIn = false) (hbusy : s.busy = true) (hb : s.busIn = []) :
    step s = .next s := by
  rw [step_of_busy hr hbusy]
  simp [awaitAnswer, hb]

/-- A state that a step leaves as it is stays so for any number of steps. -/
theorem run_of_step_eq_self {s : State} (h : step s = .next s) (n : Nat) : Sys2Proof.core.run n s = .next s := by
  induction n with
  | zero => rfl
  | succ n ih =>
    have hcore : Sys2Proof.core.step s = .next s := h
    simpa only [Host.Core.run, hcore] using ih

/-- A transmitting command that finds no answer makes its writes and hands its frame over, with no response. -/
theorem exec_transmitter_waiting {i : Instr} {s : State} (ht : transmitter i = true) (ho : operandValid i)
    (hi : s.init = true) (hb : s.busIn = []) :
    exec i s = .next
      { s with pixels := (paintedBy i s).pixels, busy := true, inFlight := some (paintedBy i s).ser } := by
  have hbus : (paintedBy i s).busIn = [] := by rw [paintedBy_eq, hb]
  rw [exec_transmitter ht ho hi, transmit_waiting _ hbus]
  congr 1
  rw [paintedBy_eq]

/-- Settles O36: the command waits, and a wait with no answer there is a step that changes nothing. -/
theorem silentSinkLeavesTheBlockStuck : Obligations.SilentSinkLeavesTheBlockStuck :=
  fun _ _ ht ho hi hr hb =>
    ⟨_, exec_transmitter_waiting ht ho hi hb, rfl, run_of_step_eq_self (step_of_silent_sink hr rfl hb)⟩

end Sys2Proof.Machine
end

section
/-! PROOFS. Reset and hazards (spec/70_reset_and_hazards.md): the reset event, and the unspecified values of BRIGHT and
FB[1..64] are never observed, as two runs that differ in nothing else stay indistinguishable. -/

namespace Sys2Proof.Machine

/-! ### The reset event (R131) -/

/-- Settles O18: a reset with no command in flight is `resetEvent`, which writes none of SPIRAL, the responses and the
bus port; the hardwired words are those of every state. -/
theorem resetEventGivesResetState : Obligations.ResetEventGivesResetState := by
  refine ⟨fun s hr hb => ?event, fun _ hr hb => step_of_reset_in_flight hr hb, ?start⟩
  case event =>
    exact ⟨resetEvent s, step_of_reset hr hb, resetEvent_init s, ⟨resetEvent_busy s, resetEvent_rstIn s⟩, fb_zero _,
      fb_end _, resetEvent_spiral s, resetEvent_responses s, resetEvent_frames s, resetEvent_inFlight s⟩
  case start => exact ⟨rfl, ⟨rfl, rfl⟩, fb_zero _, fb_end _, rfl, rfl⟩

/-! ### States and outcomes that show the same (R133) -/

/-- The block with other values in BRIGHT and FB[1..64]. -/
def State.withUnspecified (s : State) (b : Brightness) (px : Vector Word 64) : State :=
  { s with bright := b, pixels := px }

/-- Two states of which a host cannot tell which one it has: equal, or, before the first INIT, equal but for BRIGHT and
FB[1..64]. -/
inductive State.Alike : State → State → Prop where
  | refl (s : State) : Alike s s
  | unspecified {s : State} (h : s.init = false) (b : Brightness) (px : Vector Word 64) :
    Alike s (s.withUnspecified b px)

/-- Two outcomes that stop for the same reason or go on in states alike. -/
inductive OutcomeAlike : Host.Outcome State Fault Refusal → Host.Outcome State Fault Refusal → Prop where
  | next {s t : State} (h : s.Alike t) : OutcomeAlike (.next s) (.next t)
  | refused (r : Refusal) : OutcomeAlike (.refused r) (.refused r)

theorem State.Alike.of_sameButUnspecified {s t : State} (h : sameButUnspecified s t) : s.Alike t := by
  obtain ⟨hi, ht⟩ := h
  rw [ht]
  exact .unspecified hi t.bright t.pixels

/-- A host sees none of BRIGHT and FB[1..64] in states alike. -/
theorem State.Alike.observed {s t : State} (h : s.Alike t) :
    s.responses = t.responses ∧ s.frames = t.frames ∧ s.inFlight = t.inFlight ∧ s.init = t.init ∧ s.busy = t.busy := by
  cases h with
  | refl | unspecified => exact ⟨rfl, rfl, rfl, rfl, rfl⟩

/-- States alike stay so when the host offers both the same word. -/
theorem State.Alike.offered {s t : State} (h : s.Alike t) (w : Command) :
    State.Alike { s with cmdIn := some w } { t with cmdIn := some w } := by
  cases h with
  | refl => exact .refl _
  | unspecified hi b px => exact .unspecified (s := { s with cmdIn := some w }) hi b px

/-- An outcome is alike to itself; no outcome is a fault. -/
theorem OutcomeAlike.refl : ∀ o, OutcomeAlike o o
  | .next s => .next (.refl s)
  | .refused r => .refused r
  | .fault f => nomatch f

/-! ### A wait, a command and a step before the first INIT -/

/-- A wait for the sink looks at the frame in flight and the answers, not at BRIGHT and FB[1..64]. -/
theorem awaitAnswer_withUnspecified (s : State) (b : Brightness) (px : Vector Word 64) :
    awaitAnswer (s.withUnspecified b px) = (awaitAnswer s).withUnspecified b px := by
  rcases hf : s.inFlight with _ | bytes
  · simp [awaitAnswer, State.withUnspecified, hf]
  rcases hb : s.busIn with _ | ⟨a, rest⟩
  · simp [awaitAnswer, State.withUnspecified, hf, hb]
  cases a <;> simp [awaitAnswer, State.withUnspecified, hf, hb, respondOk, raise, respond]

/-- A command before the first INIT is that INIT, which writes BRIGHT and all of FB[1..64] (R77), or it is answered
NotInitialized with neither looked at (R111). -/
theorem exec_withUnspecified (i : Instr) {s : State} (hs : s.init = false) (b : Brightness) (px : Vector Word 64) :
    OutcomeAlike (exec i s) (exec i (s.withUnspecified b px)) := by
  by_cases hi : ∃ b8, i = .init b8
  · obtain ⟨b8, rfl⟩ := hi
    exact .refl (exec (.init b8) s)
  · have hne : ∀ b8, i ≠ .init b8 := not_exists.1 hi
    rw [exec_of_not_init hs hne, exec_of_not_init (s := s.withUnspecified b px) hs hne]
    exact .next (.unspecified (s := raise .notInitialized s) hs b px)

/-- One step from states alike: a reset makes them equal, a command is by `exec_withUnspecified`, and nothing else that
a step does before the first INIT looks at BRIGHT and FB[1..64]. -/
theorem step_alike {s t : State} (h : s.Alike t) : OutcomeAlike (step s) (step t) := by
  cases h with
  | refl => exact .refl (step s)
  | unspecified hi b px =>
    let t := s.withUnspecified b px
    rcases hr : s.rstIn with _ | _ <;> rcases hb : s.busy with _ | _
    · rcases hc : s.cmdIn with _ | w
      · rw [step_of_nothing_offered hr hb hc, step_of_nothing_offered (s := t) hr hb hc]
        exact .next (.unspecified hi b px)
      rcases hd : decode w with e | i
      · rw [step_of_illegal hr hb hc hd, step_of_illegal (s := t) hr hb hc hd]
        exact .next (.unspecified (s := raise .illegalCommand (accept s)) hi b px)
      · rw [step_of_decoded hr hb hc hd, step_of_decoded (s := t) hr hb hc hd]
        exact exec_withUnspecified i (s := accept s) hi b px
    · obtain ⟨hinit, -⟩ := awaitAnswer_frame s
      rw [step_of_busy hr hb, step_of_busy (s := t) hr hb, awaitAnswer_withUnspecified]
      exact .next (.unspecified (hinit.trans hi) b px)
    · rw [step_of_reset hr hb, step_of_reset (s := t) hr hb]
      exact .next (.refl (resetEvent s))
    · rw [step_of_reset_in_flight hr hb, step_of_reset_in_flight (s := t) hr hb]
      exact .refused .resetWhileBusy

/-! ### A run of commands -/

/-- The same words sent to states alike have outcomes alike. -/
theorem sendCommands_alike (ws : List Command) {s t : State} (h : s.Alike t) :
    OutcomeAlike (sendCommands ws s) (sendCommands ws t) := by
  induction ws generalizing s t with
  | nil => exact .next h
  | cons w ws ih =>
    have hw : OutcomeAlike (sendCommand w s) (sendCommand w t) := step_alike (h.offered w)
    unfold sendCommands
    generalize sendCommand w s = o, sendCommand w t = o' at hw ⊢
    cases hw with
    | next h' => exact ih h'
    | refused r => exact .refused r

/-- Settles O48: states that differ only in what is unspecified are alike, and so are the ends of their runs. -/
theorem unspecifiedResetValuesAreNeverObserved : Obligations.UnspecifiedResetValuesAreNeverObserved := by
  intro ws s t h
  have hrun := sendCommands_alike ws (.of_sameButUnspecified h)
  generalize sendCommands ws s = o, sendCommands ws t = o' at hrun
  cases hrun with
  | next h' => exact .inr ⟨_, _, rfl, rfl, h'.observed⟩
  | refused r => exact .inl ⟨r, rfl, rfl⟩

end Sys2Proof.Machine
end
